-- ==== Sys2Proof/Word.lean ====
section
/-! DEFINITION. The word types of the CORE (00_scope R7, R9): every register value is an unsigned bit string. -/

namespace Sys2Proof

/-- One byte: a general register, a timer, a memory cell (10_state R20, R27; 20_memory R50). -/
abbrev Byte := BitVec 8

/-- Sixteen bits: an instruction word, I, PC, a stack entry (10_state R23, R26, R30; 30_encoding R70). -/
abbrev Word := BitVec 16

/-- A four-bit register field x or y, which names V0..VF (10_state R20, 30_encoding R72). -/
abbrev RegIx := BitVec 4

/-- The four-bit field n: a sprite height or a function code (30_encoding R72). -/
abbrev Nibble := BitVec 4

/-- The twelve-bit address field nnn (30_encoding R72). -/
abbrev Addr := BitVec 12

end Sys2Proof
end

