-- ==== Sys2Proof/Syntax.lean ====
section
/-! DEFINITION. The instructions: one constructor for each row of the decode table (30_encoding R76), carrying exactly the
fields its format carries (30_encoding R73). -/

namespace Sys2Proof

/-- The 34 instruction kinds (30_encoding R76). The operand types carry the bounds of R72, so no term is out of range. -/
inductive Instr where
  /-- `00E0` CLS. -/
  | cls
  /-- `00EE` RET. -/
  | ret
  /-- `1nnn` JP addr. -/
  | jpAddr (nnn : Addr)
  /-- `2nnn` CALL addr. -/
  | callAddr (nnn : Addr)
  /-- `3xkk` SE Vx, byte. -/
  | seVxByte (x : RegIx) (kk : Byte)
  /-- `4xkk` SNE Vx, byte. -/
  | sneVxByte (x : RegIx) (kk : Byte)
  /-- `5xy0` SE Vx, Vy. -/
  | seVxVy (x y : RegIx)
  /-- `6xkk` LD Vx, byte. -/
  | ldVxByte (x : RegIx) (kk : Byte)
  /-- `7xkk` ADD Vx, byte. -/
  | addVxByte (x : RegIx) (kk : Byte)
  /-- `8xy0` LD Vx, Vy. -/
  | ldVxVy (x y : RegIx)
  /-- `8xy1` OR Vx, Vy. -/
  | orVxVy (x y : RegIx)
  /-- `8xy2` AND Vx, Vy. -/
  | andVxVy (x y : RegIx)
  /-- `8xy3` XOR Vx, Vy. -/
  | xorVxVy (x y : RegIx)
  /-- `8xy4` ADD Vx, Vy. -/
  | addVxVy (x y : RegIx)
  /-- `8xy5` SUB Vx, Vy. -/
  | subVxVy (x y : RegIx)
  /-- `8xy6` SHR Vx: y is encoded but is no operand (41_alu R138). -/
  | shrVx (x y : RegIx)
  /-- `8xy7` SUBN Vx, Vy. -/
  | subnVxVy (x y : RegIx)
  /-- `8xyE` SHL Vx: y is encoded but is no operand (41_alu R140). -/
  | shlVx (x y : RegIx)
  /-- `9xy0` SNE Vx, Vy. -/
  | sneVxVy (x y : RegIx)
  /-- `Annn` LD I, addr. -/
  | ldIAddr (nnn : Addr)
  /-- `Bnnn` JP V0, addr. -/
  | jpV0Addr (nnn : Addr)
  /-- `Cxkk` RND Vx, byte. -/
  | rndVxByte (x : RegIx) (kk : Byte)
  /-- `Dxyn` DRW Vx, Vy, nibble. -/
  | drwVxVy (x y : RegIx) (n : Nibble)
  /-- `Ex9E` SKP Vx. -/
  | skpVx (x : RegIx)
  /-- `ExA1` SKNP Vx. -/
  | sknpVx (x : RegIx)
  /-- `Fx07` LD Vx, DT. -/
  | ldVxDt (x : RegIx)
  /-- `Fx0A` LD Vx, K. -/
  | ldVxK (x : RegIx)
  /-- `Fx15` LD DT, Vx. -/
  | ldDtVx (x : RegIx)
  /-- `Fx18` LD ST, Vx. -/
  | ldStVx (x : RegIx)
  /-- `Fx1E` ADD I, Vx. -/
  | addIVx (x : RegIx)
  /-- `Fx29` LD F, Vx. -/
  | ldFVx (x : RegIx)
  /-- `Fx33` LD B, Vx. -/
  | ldBVx (x : RegIx)
  /-- `Fx55` LD [I], Vx. -/
  | ldMemVx (x : RegIx)
  /-- `Fx65` LD Vx, [I]. -/
  | ldVxMem (x : RegIx)
  deriving DecidableEq, Repr

end Sys2Proof
end

