-- ==== Sys2Proof/WellFormed.lean ====
section
/-! DEFINITION. Which instruction words are well formed, said twice from the spec without the decoder: by the mask and match
columns of the decode table (30_encoding R76), and by the rules on unsupported words family by family (R86 to R92).
A term of `Instr` needs no check: its operand types carry the bounds of R72. -/

namespace Sys2Proof

/-- One row of the decode table: a word matches iff its masked bits equal `value` (30_encoding R76). -/
structure Row where
  mask : Word
  value : Word
  deriving DecidableEq, Repr

/-- `(word & mask) = match` (30_encoding R76). -/
def Row.covers (r : Row) (w : Word) : Bool := w &&& r.mask == r.value

/-- The mask and match columns of R76 for each instruction kind. -/
def Instr.row : Instr → Row
  | .cls => ⟨0xFFFF, 0x00E0⟩
  | .ret => ⟨0xFFFF, 0x00EE⟩
  | .jpAddr _ => ⟨0xF000, 0x1000⟩
  | .callAddr _ => ⟨0xF000, 0x2000⟩
  | .seVxByte _ _ => ⟨0xF000, 0x3000⟩
  | .sneVxByte _ _ => ⟨0xF000, 0x4000⟩
  | .seVxVy _ _ => ⟨0xF00F, 0x5000⟩
  | .ldVxByte _ _ => ⟨0xF000, 0x6000⟩
  | .addVxByte _ _ => ⟨0xF000, 0x7000⟩
  | .ldVxVy _ _ => ⟨0xF00F, 0x8000⟩
  | .orVxVy _ _ => ⟨0xF00F, 0x8001⟩
  | .andVxVy _ _ => ⟨0xF00F, 0x8002⟩
  | .xorVxVy _ _ => ⟨0xF00F, 0x8003⟩
  | .addVxVy _ _ => ⟨0xF00F, 0x8004⟩
  | .subVxVy _ _ => ⟨0xF00F, 0x8005⟩
  | .shrVx _ _ => ⟨0xF00F, 0x8006⟩
  | .subnVxVy _ _ => ⟨0xF00F, 0x8007⟩
  | .shlVx _ _ => ⟨0xF00F, 0x800E⟩
  | .sneVxVy _ _ => ⟨0xF00F, 0x9000⟩
  | .ldIAddr _ => ⟨0xF000, 0xA000⟩
  | .jpV0Addr _ => ⟨0xF000, 0xB000⟩
  | .rndVxByte _ _ => ⟨0xF000, 0xC000⟩
  | .drwVxVy _ _ _ => ⟨0xF000, 0xD000⟩
  | .skpVx _ => ⟨0xF0FF, 0xE09E⟩
  | .sknpVx _ => ⟨0xF0FF, 0xE0A1⟩
  | .ldVxDt _ => ⟨0xF0FF, 0xF007⟩
  | .ldVxK _ => ⟨0xF0FF, 0xF00A⟩
  | .ldDtVx _ => ⟨0xF0FF, 0xF015⟩
  | .ldStVx _ => ⟨0xF0FF, 0xF018⟩
  | .addIVx _ => ⟨0xF0FF, 0xF01E⟩
  | .ldFVx _ => ⟨0xF0FF, 0xF029⟩
  | .ldBVx _ => ⟨0xF0FF, 0xF033⟩
  | .ldMemVx _ => ⟨0xF0FF, 0xF055⟩
  | .ldVxMem _ => ⟨0xF0FF, 0xF065⟩

/-- One instruction of each kind, in the table's order, with every operand zero. -/
def instrKinds : List Instr :=
  [.cls, .ret, .jpAddr 0, .callAddr 0, .seVxByte 0 0, .sneVxByte 0 0, .seVxVy 0 0, .ldVxByte 0 0, .addVxByte 0 0] ++
  [.ldVxVy 0 0, .orVxVy 0 0, .andVxVy 0 0, .xorVxVy 0 0, .addVxVy 0 0, .subVxVy 0 0, .shrVx 0 0, .subnVxVy 0 0] ++
  [.shlVx 0 0, .sneVxVy 0 0, .ldIAddr 0, .jpV0Addr 0, .rndVxByte 0 0, .drwVxVy 0 0 0, .skpVx 0, .sknpVx 0] ++
  [.ldVxDt 0, .ldVxK 0, .ldDtVx 0, .ldStVx 0, .addIVx 0, .ldFVx 0, .ldBVx 0, .ldMemVx 0, .ldVxMem 0]

/-- The 34 rows of the decode table, in its order (30_encoding R76). -/
def rows : List Row := instrKinds.map Instr.row

/-- The word matches a row of the decode table (30_encoding R76, R80). -/
def inTable (w : Word) : Bool := rows.any fun r => r.covers w

/-- Family 0x0: only 0x00E0 and 0x00EE (30_encoding R86). -/
def family0Ok (w : Word) : Bool := w.toNat / 4096 != 0 || w == 0x00E0 || w == 0x00EE

/-- Family 0x5: the low nibble is 0 (30_encoding R87). -/
def family5Ok (w : Word) : Bool := w.toNat / 4096 != 5 || w.toNat % 16 == 0

/-- Family 0x8: the low nibble is none of 0x8..0xD and 0xF (30_encoding R88). -/
def family8Ok (w : Word) : Bool :=
  w.toNat / 4096 != 8 || !([0x8, 0x9, 0xA, 0xB, 0xC, 0xD, 0xF].contains (w.toNat % 16))

/-- Family 0x9: the low nibble is 0 (30_encoding R89). -/
def family9Ok (w : Word) : Bool := w.toNat / 4096 != 9 || w.toNat % 16 == 0

/-- Family 0xE: the low byte is 0x9E or 0xA1 (30_encoding R90). -/
def familyEOk (w : Word) : Bool := w.toNat / 4096 != 14 || [0x9E, 0xA1].contains (w.toNat % 256)

/-- Family 0xF: the low byte is one of nine (30_encoding R91). -/
def familyFOk (w : Word) : Bool :=
  w.toNat / 4096 != 15 || [0x07, 0x0A, 0x15, 0x18, 0x1E, 0x29, 0x33, 0x55, 0x65].contains (w.toNat % 256)

/-- The word is supported: each family's check passes; the other ten families have none (30_encoding R86 to R92). -/
def wellFormed (w : Word) : Bool :=
  family0Ok w && family5Ok w && family8Ok w && family9Ok w && familyEOk w && familyFOk w

end Sys2Proof
end

