-- ==== Sys2Proof/Decode.lean ====
section
/-! DEFINITION. The decoder (30_encoding R71 to R76, R80 to R92), total on any word and on any bytes, and after it the encoder,
from the same table. -/

namespace Sys2Proof

/-- Why bytes are no instruction. -/
inductive DecodeError where
  /-- The word matches no row of the decode table; raised by the decoder (30_encoding R80). Safe: the spec's own error. -/
  | unsupportedOpcode (word : Word)
  /-- Fewer than two bytes were given; raised by `decodeBytes` only, never by a fetch (30_encoding R70). Safe. -/
  | truncated
  deriving DecidableEq, Repr

/-- w[15:12] (30_encoding R72). -/
def opField (w : Word) : Nibble := w.extractLsb' 12 4

/-- w[11:8] (30_encoding R72). -/
def xField (w : Word) : RegIx := w.extractLsb' 8 4

/-- w[7:4] (30_encoding R72). -/
def yField (w : Word) : RegIx := w.extractLsb' 4 4

/-- w[3:0] (30_encoding R72). -/
def nField (w : Word) : Nibble := w.extractLsb' 0 4

/-- w[7:0] (30_encoding R72). -/
def kkField (w : Word) : Byte := w.extractLsb' 0 8

/-- w[11:0] (30_encoding R72). -/
def nnnField (w : Word) : Addr := w.extractLsb' 0 12

/-- Family 0x0 dispatches on kk, with x zero: only 00E0 and 00EE (30_encoding R75, R86). -/
def decodeFamily0 (w : Word) : Option Instr :=
  if w = 0x00E0 then some .cls
  else if w = 0x00EE then some .ret
  else none

/-- Family 0x8 dispatches on n (30_encoding R75, R76, R88). -/
def decodeFamily8 (n : Nibble) (x y : RegIx) : Option Instr :=
  match n.toNat with
  | 0x0 => some (.ldVxVy x y)
  | 0x1 => some (.orVxVy x y)
  | 0x2 => some (.andVxVy x y)
  | 0x3 => some (.xorVxVy x y)
  | 0x4 => some (.addVxVy x y)
  | 0x5 => some (.subVxVy x y)
  | 0x6 => some (.shrVx x y)
  | 0x7 => some (.subnVxVy x y)
  | 0xE => some (.shlVx x y)
  | _ => none

/-- Family 0xE dispatches on kk (30_encoding R75, R76, R90). -/
def decodeFamilyE (kk : Byte) (x : RegIx) : Option Instr :=
  if kk = 0x9E then some (.skpVx x)
  else if kk = 0xA1 then some (.sknpVx x)
  else none

/-- Family 0xF dispatches on kk (30_encoding R75, R76, R91). -/
def decodeFamilyF (kk : Byte) (x : RegIx) : Option Instr :=
  if kk = 0x07 then some (.ldVxDt x)
  else if kk = 0x0A then some (.ldVxK x)
  else if kk = 0x15 then some (.ldDtVx x)
  else if kk = 0x18 then some (.ldStVx x)
  else if kk = 0x1E then some (.addIVx x)
  else if kk = 0x29 then some (.ldFVx x)
  else if kk = 0x33 then some (.ldBVx x)
  else if kk = 0x55 then some (.ldMemVx x)
  else if kk = 0x65 then some (.ldVxMem x)
  else none

/-- The row the word matches, by family (30_encoding R75, R76). -/
def decodeRow (w : Word) : Option Instr :=
  match (opField w).toNat with
  | 0x0 => decodeFamily0 w
  | 0x1 => some (.jpAddr (nnnField w))
  | 0x2 => some (.callAddr (nnnField w))
  | 0x3 => some (.seVxByte (xField w) (kkField w))
  | 0x4 => some (.sneVxByte (xField w) (kkField w))
  | 0x5 => if nField w = 0 then some (.seVxVy (xField w) (yField w)) else none
  | 0x6 => some (.ldVxByte (xField w) (kkField w))
  | 0x7 => some (.addVxByte (xField w) (kkField w))
  | 0x8 => decodeFamily8 (nField w) (xField w) (yField w)
  | 0x9 => if nField w = 0 then some (.sneVxVy (xField w) (yField w)) else none
  | 0xA => some (.ldIAddr (nnnField w))
  | 0xB => some (.jpV0Addr (nnnField w))
  | 0xC => some (.rndVxByte (xField w) (kkField w))
  | 0xD => some (.drwVxVy (xField w) (yField w) (nField w))
  | 0xE => decodeFamilyE (kkField w) (xField w)
  | 0xF => decodeFamilyF (kkField w) (xField w)
  | _ => none

/-- The decoder: a pure total function from a word to an instruction or `UnsupportedOpcode(word)` (30_encoding R71, R80). -/
def decode (w : Word) : Except DecodeError Instr :=
  match decodeRow w with
  | some i => .ok i
  | none => .error (.unsupportedOpcode w)

/-- The instruction at the head of a list of bytes, big-endian, with the rest of the list (20_memory R53, 30_encoding R70). -/
def decodeBytes : List Byte → Except DecodeError (Instr × List Byte)
  | hi :: lo :: rest =>
    match decode (hi ++ lo) with
    | .ok i => .ok (i, rest)
    | .error e => .error e
  | _ => .error .truncated

/-- A word from its four nibbles, the most significant first (00_scope R9, 30_encoding R73). -/
def fourNibbles (a b c d : BitVec 4) : Word := a ++ b ++ c ++ d

/-- A word of format XKK or X: family, x, low byte (30_encoding R73). -/
def opXKk (op : Nibble) (x : RegIx) (kk : Byte) : Word := op ++ x ++ kk

/-- A word of format NNN: family, address (30_encoding R73). -/
def opNnn (op : Nibble) (nnn : Addr) : Word := op ++ nnn

/-- The word of an instruction, from the encodings of 30_encoding R73, R76. -/
def encode : Instr → Word
  | .cls => 0x00E0
  | .ret => 0x00EE
  | .jpAddr nnn => opNnn 0x1 nnn
  | .callAddr nnn => opNnn 0x2 nnn
  | .seVxByte x kk => opXKk 0x3 x kk
  | .sneVxByte x kk => opXKk 0x4 x kk
  | .seVxVy x y => fourNibbles 0x5 x y 0x0
  | .ldVxByte x kk => opXKk 0x6 x kk
  | .addVxByte x kk => opXKk 0x7 x kk
  | .ldVxVy x y => fourNibbles 0x8 x y 0x0
  | .orVxVy x y => fourNibbles 0x8 x y 0x1
  | .andVxVy x y => fourNibbles 0x8 x y 0x2
  | .xorVxVy x y => fourNibbles 0x8 x y 0x3
  | .addVxVy x y => fourNibbles 0x8 x y 0x4
  | .subVxVy x y => fourNibbles 0x8 x y 0x5
  | .shrVx x y => fourNibbles 0x8 x y 0x6
  | .subnVxVy x y => fourNibbles 0x8 x y 0x7
  | .shlVx x y => fourNibbles 0x8 x y 0xE
  | .sneVxVy x y => fourNibbles 0x9 x y 0x0
  | .ldIAddr nnn => opNnn 0xA nnn
  | .jpV0Addr nnn => opNnn 0xB nnn
  | .rndVxByte x kk => opXKk 0xC x kk
  | .drwVxVy x y n => fourNibbles 0xD x y n
  | .skpVx x => opXKk 0xE x 0x9E
  | .sknpVx x => opXKk 0xE x 0xA1
  | .ldVxDt x => opXKk 0xF x 0x07
  | .ldVxK x => opXKk 0xF x 0x0A
  | .ldDtVx x => opXKk 0xF x 0x15
  | .ldStVx x => opXKk 0xF x 0x18
  | .addIVx x => opXKk 0xF x 0x1E
  | .ldFVx x => opXKk 0xF x 0x29
  | .ldBVx x => opXKk 0xF x 0x33
  | .ldMemVx x => opXKk 0xF x 0x55
  | .ldVxMem x => opXKk 0xF x 0x65

/-- The two bytes of a word as memory stores it, the most significant byte at the lower address (20_memory R53). -/
def wordBytes (w : Word) : List Byte := [w.extractLsb' 8 8, w.extractLsb' 0 8]

/-- The word whose bits a row of `nbits` bits gives as `w`, every bit above `nbits` zero. -/
def tableWord (nbits w : Nat) : Word := BitVec.ofNat 16 (w % 2 ^ nbits)

/-- The instruction the decoder reads from the bits `w` of a table row, laid out in memory's byte order. -/
def decodeTableWord (nbits w : Nat) : Option Instr :=
  match decodeBytes (wordBytes (tableWord nbits w)) with
  | .ok (i, _) => some i
  | .error _ => none

end Sys2Proof
end

