-- ==== Sys2Proof/Machine/Font.lean ====
section
/-! DEFINITION. What memory holds after reset: the font table and zeros (70_reset_and_hazards R301, 42_memory_index R164, R165). -/

namespace Sys2Proof.Machine

/-- Addresses are below this (20_memory R50). -/
def memSize : Nat := 4096

/-- `FONT`: glyphs 0 to F, five bytes each (42_memory_index R164). The spec supplies them from general knowledge (92 D15);
log entry 9. -/
def fontTable : List Byte :=
  [0xF0, 0x90, 0x90, 0x90, 0xF0, 0x20, 0x60, 0x20, 0x20, 0x70] ++
  [0xF0, 0x10, 0xF0, 0x80, 0xF0, 0xF0, 0x10, 0xF0, 0x10, 0xF0] ++
  [0x90, 0x90, 0xF0, 0x10, 0x10, 0xF0, 0x80, 0xF0, 0x10, 0xF0] ++
  [0xF0, 0x80, 0xF0, 0x90, 0xF0, 0xF0, 0x10, 0x20, 0x40, 0x40] ++
  [0xF0, 0x90, 0xF0, 0x90, 0xF0, 0xF0, 0x90, 0xF0, 0x10, 0xF0] ++
  [0xF0, 0x90, 0xF0, 0x90, 0x90, 0xE0, 0x90, 0xE0, 0x90, 0xE0] ++
  [0xF0, 0x80, 0x80, 0x80, 0xF0, 0xE0, 0x90, 0x90, 0x90, 0xE0] ++
  [0xF0, 0x80, 0xF0, 0x80, 0xF0, 0xF0, 0x80, 0xF0, 0x80, 0x80]

/-- What a byte nothing has written reads as: the font at [0,80), 0 elsewhere (70_reset_and_hazards R301; 92 D14; log entry 9). -/
def resetByte (a : Nat) : Byte := fontTable.getD a 0

end Sys2Proof.Machine
end

