-- ==== Sys2Proof/Config.lean ====
section
/-! DEFINITION. What an implementation fixes, and the free values: constants with no body, of which no proof can learn a value.
Parameters of 00_scope R8 and 45_step_machine R230. -/

namespace Sys2Proof

/-- `DT_INIT`: the delay timer after reset, OPEN, any byte (10_state R27; 92 D12). Log entry 6; safe. -/
opaque Config.dtInit : Byte

/-- `ST_INIT`: the sound timer after reset, OPEN, any byte (10_state R27; 92 D12). Log entry 6; safe. -/
opaque Config.stInit : Byte

/-- `CLS_CLEARS`: whether CLS clears the display, OPEN (44_display_random R201; 92 D4). Log entry 7; safe. -/
opaque Config.clsClears : Bool

/-- The random byte of the n-th execution of RND since reset: free, under no law (44_display_random R207). Log entry 5; safe. -/
opaque Config.rnd : Nat → Byte

/-- The `elapsed` argument, in microseconds, of the n-th tick since reset, where the state does not hold it
(45_step_machine R230: the caller's choice). DESIGN CHOICE, log entry 3; safe. -/
opaque Config.elapsed : Nat → Nat

end Sys2Proof
end

