-- ==== Sys2Proof/Machine/State.lean ====
section
/-! DEFINITION. The state of the CORE as plain data (10_state), the errors it reports (60_exceptions R260 to R265), and the state
after reset (10_state R45). -/

namespace Sys2Proof.Machine

/-- What an OutOfRangeAccess records (60_exceptions R264). -/
inductive AccessInfo where
  /-- The lowest address above 0xFFF that the access would touch. -/
  | mem (addr : Nat)
  /-- The value above 15 that SKP or SKNP used as a key index. -/
  | key (value : Byte)
  deriving DecidableEq, Repr

/-- The four errors of the CORE (60_exceptions R260). An error ends no run: `raise` gives the next state it leaves (R266). -/
inductive CoreError where
  /-- The fetched word matches no row of the decode table; raised by an Idle step (R261). -/
  | unsupportedOpcode (word : Word)
  /-- CALL with 16 entries on the stack; records the address of the CALL (R262). -/
  | callStackOverflow (pc : Word)
  /-- RET with an empty stack; records the address of the RET (R263). -/
  | emptyStackReturn (pc : Word)
  /-- An access outside the state that exists (R264). -/
  | outOfRangeAccess (info : AccessInfo)
  deriving DecidableEq, Repr

/-- The tick outcome port (45_step_machine R230, 60_exceptions R265). -/
inductive TickOutcome where
  /-- The step raised nothing. -/
  | ok
  /-- The step raised this error. -/
  | error (e : CoreError)
  deriving DecidableEq, Repr

/-- Reasons for the machine to stop for good. There is none: every error of the CORE is recoverable at the step and leaves a
state that later ticks start from (60_exceptions R260, R266; 45_step_machine R238). Log entry 1. -/
inductive Fault where
  deriving DecidableEq, Repr

/-- Reasons to give an instruction no meaning. -/
inductive Refusal where
  /-- The instruction has no meaning in this model yet. Raised by an arm of `exec` only; no arm raises it. Safe. -/
  | notModelled (mnemonic : String)
  deriving DecidableEq, Repr

/-- Memory: address and byte pairs, addresses rising, none equal to what an unlisted address reads as (20_memory R50;
`Memory.wf`). -/
abbrev Memory := List Host.Cell

/-- The display: 32 rows of 64 one-bit cells, true meaning set (10_state R35). -/
abbrev Display := Vector (Vector Bool 64) 32

/-- The whole state of the CORE (10_state R45), its ports that hold a value between ticks (45_step_machine R230), and four fields
of the model's own, marked so. -/
structure State where
  /-- V0..VF (R20). -/
  v : Vector Byte 16
  /-- The index register I (R26). -/
  index : Word
  /-- The program counter (R23). -/
  pc : Word
  /-- The delay timer DT (R27). -/
  dt : Byte
  /-- The sound timer ST (R27). -/
  st : Byte
  /-- The call stack, its last element the top (R30, R33). -/
  stack : List Word
  /-- The key states, true meaning pressed (R34). -/
  keys : Vector Bool 16
  /-- The display grid (R35). -/
  disp : Display
  /-- The 4096 bytes of memory (20_memory R50). -/
  mem : Memory
  /-- The pending instruction: none is Idle; `some x` is Waiting on LD Vx,K with this x (R37). -/
  pending : Option RegIx
  /-- Set by a JP to itself and by every error (R38). -/
  halted : Bool
  /-- Set by a draw instruction, cleared by the host (R39). -/
  dirty : Bool
  /-- The timer accumulator, in units of 1/60 microsecond (R40). -/
  acc : Nat
  /-- What the last tick reported (45_step_machine R230). -/
  outcome : TickOutcome
  /-- The model's own: the `elapsed` arguments of the coming ticks, the next first, as far as they are fixed. Log entry 3. -/
  elapsedIn : List Nat
  /-- The model's own: how many ticks have run. Log entry 4. -/
  ticks : Nat
  /-- The model's own: how many random bytes have been drawn. Log entry 5. -/
  draws : Nat
  /-- The model's own: whether the host has loaded a program since reset (70_reset_and_hazards R305). Log entry 17. -/
  loaded : Bool
  deriving DecidableEq, Repr

/-- The display with every cell 0 (10_state R35). -/
def Display.blank : Display := Vector.replicate 32 (Vector.replicate 64 false)

/-- The state right after reset (10_state R45, 70_reset_and_hazards R300 to R302): no program is loaded. DT and ST hold the open
parameters; `outcome`, `elapsedIn`, `ticks`, `draws` and `loaded` are DESIGN CHOICES (log entries 2 to 5 and 17). -/
def State.reset : State where
  v := Vector.replicate 16 0
  index := 0
  pc := 0x200
  dt := Config.dtInit
  st := Config.stInit
  stack := []
  keys := Vector.replicate 16 false
  disp := Display.blank
  mem := []
  pending := none
  halted := false
  dirty := false
  acc := 0
  outcome := .ok
  elapsedIn := []
  ticks := 0
  draws := 0
  loaded := false

/-- What a step answers. -/
abbrev Out := Host.Outcome State Fault Refusal

end Sys2Proof.Machine
end

