-- ==== Sys2Proof/Machine/Ops.lean ====
section
/-! DEFINITION. The named operations over registers, memory, the call stack, the keys, the display and the timers, and the one
operation every error goes through. -/

namespace Sys2Proof.Machine

/-! ### Registers -/

/-- V[x] (00_scope R10, 10_state R20). -/
def State.getV (s : State) (x : RegIx) : Byte := s.v[x.toNat]

/-- `V[x] <- b`. No register is hardwired (10_state R22). -/
def State.setV (s : State) (x : RegIx) (b : Byte) : State := { s with v := s.v.set x.toNat b }

/-- `I <- w` (10_state R26). -/
def State.setIndex (s : State) (w : Word) : State := { s with index := w }

/-- `DT <- b` (10_state R28). -/
def State.setDt (s : State) (b : Byte) : State := { s with dt := b }

/-- `ST <- b` (10_state R28). -/
def State.setSt (s : State) (b : Byte) : State := { s with st := b }

/-- `V[k], V[k+1], ... <- bytes`, in ascending order (42_memory_index R168). -/
def loadRegs : Nat → List Byte → Vector Byte 16 → Vector Byte 16
  | _, [], v => v
  | k, b :: bs, v => loadRegs (k + 1) bs (v.setIfInBounds k b)

/-- The register file replaced (42_memory_index R168). -/
def State.setRegs (s : State) (v : Vector Byte 16) : State := { s with v := v }

/-! ### How a step ends -/

/-- The step returns Ok with this PC (10_state R24, 45_step_machine R233). -/
def State.finish (s : State) (pc : Word) : State := { s with pc := pc, outcome := .ok }

/-- `PC <- PC + 2` (10_state R24). -/
def advance (s : State) : Out := .next (s.finish (s.pc + 2))

/-- `if c then PC <- PC + 4 else PC <- PC + 2` (40_control_flow R105, R110). -/
def skipIf (c : Bool) (s : State) : Out := .next (s.finish (if c then s.pc + 4 else s.pc + 2))

/-- `PC <- target`, with no check of the target (40_control_flow R100). -/
def jumpTo (target : Word) (s : State) : Out := .next (s.finish target)

/-- The state an error leaves: halted is set, the outcome is the error, nothing else changes (60_exceptions R266). -/
def State.raised (s : State) (e : CoreError) : State := { s with halted := true, outcome := .error e }

/-- `raise E(info)`: the one operation for taking an error (00_scope R11, 60_exceptions R266). It saves no context and goes to no
handler, and no instruction returns from it (R269). -/
def raise (e : CoreError) (s : State) : Out := .next (s.raised e)

/-- Go on with the value of a check, or raise its error. -/
def orRaise {α : Type} (r : Except CoreError α) (s : State) (k : α → Out) : Out :=
  match r with
  | .ok a => k a
  | .error e => raise e s

/-- The code of an outcome (60_exceptions R265). -/
def outcomeCode : TickOutcome → Nat
  | .ok => 0
  | .error (.unsupportedOpcode _) => 1
  | .error (.callStackOverflow _) => 2
  | .error (.emptyStackReturn _) => 3
  | .error (.outOfRangeAccess _) => 4

/-! ### Memory -/

/-- The canonical form: addresses strictly rising and below 4096, no entry equal to what an unlisted address reads as. -/
abbrev Memory.wf (m : Memory) : Prop :=
  m.Pairwise (fun c d => c.1 < d.1) ∧ ∀ c ∈ m, c.1 < memSize ∧ c.2 ≠ resetByte c.1

/-- The byte at an address (20_memory R57). -/
def memRead : Memory → Nat → Byte
  | [], a => resetByte a
  | (a', b) :: m, a => if a = a' then b else memRead m a

/-- Put an entry in front, unless it says what an unlisted address says. -/
def memPut (a : Nat) (b : Byte) (m : Memory) : Memory := if b = resetByte a then m else (a, b) :: m

/-- Write one byte (20_memory R57), keeping the canonical form. -/
def memWrite : Memory → Nat → Byte → Memory
  | [], a, b => memPut a b []
  | (a', b') :: m, a, b =>
    if a < a' then memPut a b ((a', b') :: m)
    else if a = a' then memPut a b m
    else (a', b') :: memWrite m a b

/-- The n bytes at addr, addr+1, ... (20_memory R57). -/
def readBytes (m : Memory) (addr n : Nat) : List Byte := (List.range n).map fun k => memRead m (addr + k)

/-- Write bytes at addr, addr+1, ... in ascending order (20_memory R57). -/
def writeBytes : Memory → Nat → List Byte → Memory
  | m, _, [] => m
  | m, addr, b :: bs => writeBytes (memWrite m addr b) (addr + 1) bs

/-- The lowest address above 0xFFF among addr .. addr+n-1, computed without wrapping (20_memory R56). -/
def firstAbsent (addr n : Nat) : Option Nat :=
  if 0 < n ∧ memSize < addr + n then some (max addr memSize) else none

/-- `MemRead(addr, n)`: every address is checked first (00_scope R11, 20_memory R56). -/
def loadBytes (m : Memory) (addr n : Nat) : Except CoreError (List Byte) :=
  match firstAbsent addr n with
  | some a => .error (.outOfRangeAccess (.mem a))
  | none => .ok (readBytes m addr n)

/-- `MemWrite(addr, n, v)`: every address is checked before the first write (00_scope R11, 20_memory R56). -/
def storeBytes (m : Memory) (addr : Nat) (bs : List Byte) : Except CoreError Memory :=
  match firstAbsent addr bs.length with
  | some a => .error (.outOfRangeAccess (.mem a))
  | none => .ok (writeBytes m addr bs)

/-- Memory replaced. -/
def State.setMem (s : State) (m : Memory) : State := { s with mem := m }

/-- A program has been loaded (70_reset_and_hazards R305; 92 D32). -/
def State.markLoaded (s : State) : State := { s with loaded := true }

/-! ### The call stack -/

/-- Entries the stack can hold (10_state R30). -/
def stackCapacity : Nat := 16

/-- The stack replaced. -/
def State.setStack (s : State) (l : List Word) : State := { s with stack := l }

/-- `push(v)`: an error when the stack is full (10_state R33; more than 16 entries, which no run reaches, count as full, log
entry 10). -/
def push (w : Word) (s : State) : Except CoreError State :=
  if stackCapacity ≤ s.stack.length then .error (.callStackOverflow s.pc)
  else .ok (s.setStack (s.stack ++ [w]))

/-- `pop()`: the last entry and the stack without it; an error when the stack is empty (10_state R33). -/
def pop (s : State) : Except CoreError (Word × State) :=
  match s.stack.getLast? with
  | none => .error (.emptyStackReturn s.pc)
  | some w => .ok (w, s.setStack s.stack.dropLast)

/-! ### Keys and the step state -/

/-- `Key[k]` for the key numbered by a byte; a number above 15 names no key (43_timer_key R183). -/
def readKey (s : State) (k : Byte) : Except CoreError Bool :=
  if h : k.toNat < 16 then .ok s.keys[k.toNat] else .error (.outOfRangeAccess (.key k))

/-- `min { k | Key[k] }`, if some key is pressed (43_timer_key R187). -/
def lowestKey (keys : Vector Bool 16) : Option Nat := keys.toList.findIdx? id

/-- The pending instruction set or cleared (10_state R37). -/
def State.setPending (s : State) (p : Option RegIx) : State := { s with pending := p }

/-- halted set if the condition holds (10_state R38). -/
def State.haltIf (s : State) (c : Bool) : State := { s with halted := s.halted || c }

/-- One random draw used up (44_display_random R207). -/
def State.countDraw (s : State) : State := { s with draws := s.draws + 1 }

/-! ### The display -/

/-- `Disp[r][c]`, coordinates wrapping modulo 32 and 64 (10_state R35). -/
def pixel (d : Display) (r c : Nat) : Bool :=
  (d[r % 32]'(Nat.mod_lt r (by decide)))[c % 64]'(Nat.mod_lt c (by decide))

/-- `Disp[r][c] <- b`, coordinates wrapping modulo 32 and 64 (10_state R35). -/
def setPixel (d : Display) (r c : Nat) (b : Bool) : Display :=
  d.set (r % 32) ((d[r % 32]'(Nat.mod_lt r (by decide))).set (c % 64) b (Nat.mod_lt c (by decide)))
    (Nat.mod_lt r (by decide))

/-- One pixel of the blit: XOR in bit 7-j of a sprite byte at row r, column x0+j, and note an erasure (44_display_random R202). -/
def blitPixel (x0 r : Nat) (b : Byte) (p : Display × Bool) (j : Nat) : Display × Bool :=
  let old := pixel p.1 r (x0 + j)
  let new := old ^^ b.getLsbD (7 - j)
  (setPixel p.1 r (x0 + j) new, p.2 || (old && !new))

/-- One row of the blit: pixels j = 0..7 (44_display_random R202). -/
def blitRow (x0 r : Nat) (b : Byte) (p : Display × Bool) : Display × Bool :=
  [0, 1, 2, 3, 4, 5, 6, 7].foldl (blitPixel x0 r b) p

/-- The rows of the blit, from row r down (44_display_random R202). -/
def blitRows (x0 : Nat) : Nat → List Byte → Display × Bool → Display × Bool
  | _, [], p => p
  | r, b :: bs, p => blitRows x0 (r + 1) bs (blitRow x0 r b p)

/-- `draw_sprite(x0, y0, S)`: the new grid and the collision (44_display_random R200, R202). -/
def drawSprite (x0 y0 : Byte) (sprite : List Byte) (d : Display) : Display × Bool :=
  blitRows x0.toNat y0.toNat sprite (d, false)

/-- The grid and the dirty flag replaced (10_state R36, R39). -/
def State.setFrame (s : State) (d : Display) (dirty : Bool) : State := { s with disp := d, dirty := dirty }

/-! ### The timers -/

/-- One decay interval, 1000/60 ms, in units of 1/60 microsecond (60_exceptions R285). -/
def decayInterval : Nat := 1000000

/-- A timer after k decrements: it stays at 0 (60_exceptions R283). -/
def decayed (t : Byte) (k : Nat) : Byte := BitVec.ofNat 8 (t.toNat - k)

/-- The timer pass, in the closed form of 60_exceptions R285; the loop of that rule is `Safety.lean`'s `decayLoop`. -/
def timerPass (elapsed : Nat) (s : State) : State :=
  { s with
    dt := decayed s.dt ((s.acc + 60 * elapsed) / decayInterval)
    st := decayed s.st ((s.acc + 60 * elapsed) / decayInterval)
    acc := (s.acc + 60 * elapsed) % decayInterval }

end Sys2Proof.Machine
end

