-- ==== Sys2Proof/Machine/Flags.lean ====
section
/-! DEFINITION. Every flag computation, and writing a result with its flag (10_state R44, 41_alu R136 to R142). -/

namespace Sys2Proof.Machine

/-- VF, the flag register (10_state R21). -/
def flagReg : RegIx := 0xF

/-- A Boolean used as a number (00_scope R9). -/
def flagByte (f : Bool) : Byte := if f then 1 else 0

/-- Carry out of bit 7: the exact sum exceeds 255 (41_alu R136). -/
def carryOut (a b : Byte) : Bool := decide (255 < a.toNat + b.toNat)

/-- No borrow in a - b: a is at least b, equality included (41_alu R137, R139). -/
def notBorrow (a b : Byte) : Bool := decide (b.toNat ≤ a.toNat)

/-- The bit a right shift pushes out (41_alu R138). -/
def shiftedOutRight (a : Byte) : Bool := a.getLsbD 0

/-- The bit a left shift pushes out (41_alu R140). -/
def shiftedOutLeft (a : Byte) : Bool := a.getLsbD 7

/-- `V[0xF] <- f`. -/
def State.setFlag (s : State) (f : Bool) : State := s.setV flagReg (flagByte f)

/-- The result goes to V[x] first, then the flag to VF, so with x = 0xF the flag stands (41_alu R142). -/
def State.setResult (s : State) (x : RegIx) (result : Byte) (f : Bool) : State := (s.setV x result).setFlag f

end Sys2Proof.Machine
end

