-- ==== Sys2Proof/Machine/Alu.lean ====
section
/-! DEFINITION. ALU and register file: the meanings of 41_alu. -/

namespace Sys2Proof.Machine

/-- LD Vx, byte (R130). -/
def execLdVxByte (x : RegIx) (kk : Byte) (s : State) : Out := advance (s.setV x kk)

/-- ADD Vx, byte (R131): wrapping, no flag. -/
def execAddVxByte (x : RegIx) (kk : Byte) (s : State) : Out := advance (s.setV x (s.getV x + kk))

/-- LD Vx, Vy (R132). -/
def execLdVxVy (x y : RegIx) (s : State) : Out := advance (s.setV x (s.getV y))

/-- OR Vx, Vy (R133): no flag. -/
def execOrVxVy (x y : RegIx) (s : State) : Out := advance (s.setV x (s.getV x ||| s.getV y))

/-- AND Vx, Vy (R134): no flag. -/
def execAndVxVy (x y : RegIx) (s : State) : Out := advance (s.setV x (s.getV x &&& s.getV y))

/-- XOR Vx, Vy (R135): no flag. -/
def execXorVxVy (x y : RegIx) (s : State) : Out := advance (s.setV x (s.getV x ^^^ s.getV y))

/-- ADD Vx, Vy (R136): VF is the carry. -/
def execAddVxVy (x y : RegIx) (s : State) : Out :=
  advance (s.setResult x (s.getV x + s.getV y) (carryOut (s.getV x) (s.getV y)))

/-- SUB Vx, Vy (R137): VF is the inverted borrow. -/
def execSubVxVy (x y : RegIx) (s : State) : Out :=
  advance (s.setResult x (s.getV x - s.getV y) (notBorrow (s.getV x) (s.getV y)))

/-- SHR Vx (R138): Vy is not read. -/
def execShrVx (x _y : RegIx) (s : State) : Out :=
  advance (s.setResult x (s.getV x >>> 1) (shiftedOutRight (s.getV x)))

/-- SUBN Vx, Vy (R139): Vy - Vx. -/
def execSubnVxVy (x y : RegIx) (s : State) : Out :=
  advance (s.setResult x (s.getV y - s.getV x) (notBorrow (s.getV y) (s.getV x)))

/-- SHL Vx (R140): Vy is not read. -/
def execShlVx (x _y : RegIx) (s : State) : Out :=
  advance (s.setResult x (s.getV x <<< 1) (shiftedOutLeft (s.getV x)))

end Sys2Proof.Machine
end

