-- ==== Sys2Proof/Machine/Operands.lean ====
section
/-! DEFINITION. Every operand form of the instructions (30_encoding R74, 42_memory_index R160, R163, R166). V[x] is
`State.getV`, a key named by V[x] is `readKey`, and kk is used as it stands. -/

namespace Sys2Proof.Machine

/-- `zext_16(nnn)` (30_encoding R74). -/
def zextAddr (nnn : Addr) : Word := nnn.setWidth 16

/-- `zext_16` of a byte (00_scope R9). -/
def zextByte (b : Byte) : Word := b.setWidth 16

/-- `zext_16(nnn) + zext_16(V[0])`, always V0 (40_control_flow R103). -/
def jumpV0Target (s : State) (nnn : Addr) : Word := zextAddr nnn + zextByte (s.getV 0)

/-- `(I + V[x]) mod 65536` (42_memory_index R162). -/
def indexPlus (s : State) (x : RegIx) : Word := s.index + zextByte (s.getV x)

/-- The glyph base `5 * zext_16(V[x])`, with no masking (42_memory_index R163). -/
def glyphBase (b : Byte) : Word := 5 * zextByte b

/-- The address I of a block, as an unbounded number (42_memory_index R160). -/
def blockAddr (s : State) : Nat := s.index.toNat

/-- The registers V0..Vx, inclusive of x (42_memory_index R167). -/
def regBlock (s : State) (x : RegIx) : List Byte := s.v.toList.take (x.toNat + 1)

/-- The decimal digits of a byte: hundreds, tens, ones (42_memory_index R166). -/
def bcdDigits (b : Byte) : List Byte :=
  [BitVec.ofNat 8 (b.toNat / 100), BitVec.ofNat 8 (b.toNat / 10 % 10), BitVec.ofNat 8 (b.toNat % 10)]

/-- The sprite or block of n bytes at I (42_memory_index R160, 44_display_random R205). -/
def loadBlock (s : State) (n : Nat) : Except CoreError (List Byte) := loadBytes s.mem (blockAddr s) n

/-- Memory after these bytes are stored at I (42_memory_index R160, R166, R167). -/
def storeBlock (s : State) (bs : List Byte) : Except CoreError Memory := storeBytes s.mem (blockAddr s) bs

end Sys2Proof.Machine
end

