-- ==== Sys2Proof/Machine/ControlFlow.lean ====
section
/-! DEFINITION. Control flow: the meanings of 40_control_flow. -/

namespace Sys2Proof.Machine

/-- RET (R101): the popped value is used as it is. -/
def execRet (s : State) : Out := orRaise (pop s) s fun p => jumpTo p.1 p.2

/-- JP addr (R102): a jump to its own address sets halted. -/
def execJpAddr (nnn : Addr) (s : State) : Out := jumpTo (zextAddr nnn) (s.haltIf (zextAddr nnn == s.pc))

/-- JP V0, addr (R103): no halt test. -/
def execJpV0Addr (nnn : Addr) (s : State) : Out := jumpTo (jumpV0Target s nnn) s

/-- CALL addr (R104): pushes PC + 2, then jumps. -/
def execCallAddr (nnn : Addr) (s : State) : Out := orRaise (push (s.pc + 2) s) s fun t => jumpTo (zextAddr nnn) t

/-- SE Vx, byte (R105). -/
def execSeVxByte (x : RegIx) (kk : Byte) (s : State) : Out := skipIf (s.getV x == kk) s

/-- SNE Vx, byte (R106). -/
def execSneVxByte (x : RegIx) (kk : Byte) (s : State) : Out := skipIf (s.getV x != kk) s

/-- SE Vx, Vy (R107). -/
def execSeVxVy (x y : RegIx) (s : State) : Out := skipIf (s.getV x == s.getV y) s

/-- SNE Vx, Vy (R108). -/
def execSneVxVy (x y : RegIx) (s : State) : Out := skipIf (s.getV x != s.getV y) s

end Sys2Proof.Machine
end

