-- ==== Sys2Proof/Machine/DisplayRandom.lean ====
section
/-! DEFINITION. Display and random: the meanings of 44_display_random. -/

namespace Sys2Proof.Machine

/-- CLS (R201): the display is cleared and dirty set only under the open parameter CLS_CLEARS. -/
def execCls (s : State) : Out :=
  advance (s.setFrame (if Config.clsClears then Display.blank else s.disp) (s.dirty || Config.clsClears))

/-- DRW Vx, Vy, nibble (R205): the coordinates are read before VF is written. -/
def execDrwVxVy (x y : RegIx) (n : Nibble) (s : State) : Out :=
  orRaise (loadBlock s n.toNat) s fun sprite =>
    let drawn := drawSprite (s.getV x) (s.getV y) sprite s.disp
    advance ((s.setFrame drawn.1 true).setFlag drawn.2)

/-- RND Vx, byte (R206): the step's own free draw, masked (R207; log entry 5). -/
def execRndVxByte (x : RegIx) (kk : Byte) (s : State) : Out :=
  advance ((s.setV x (Config.rnd s.draws &&& kk)).countDraw)

end Sys2Proof.Machine
end

