-- ==== Sys2Proof/Machine/MemoryIndex.lean ====
section
/-! DEFINITION. Memory and index: the meanings of 42_memory_index. -/

namespace Sys2Proof.Machine

/-- LD I, addr (R161). -/
def execLdIAddr (nnn : Addr) (s : State) : Out := advance (s.setIndex (zextAddr nnn))

/-- ADD I, Vx (R162): modulo 65536, no flag. -/
def execAddIVx (x : RegIx) (s : State) : Out := advance (s.setIndex (indexPlus s x))

/-- LD F, Vx (R163). -/
def execLdFVx (x : RegIx) (s : State) : Out := advance (s.setIndex (glyphBase (s.getV x)))

/-- LD B, Vx (R166): three digits at I, I+1, I+2. -/
def execLdBVx (x : RegIx) (s : State) : Out :=
  orRaise (storeBlock s (bcdDigits (s.getV x))) s fun m => advance (s.setMem m)

/-- LD [I], Vx (R167): V0..Vx at I..I+x. -/
def execLdMemVx (x : RegIx) (s : State) : Out :=
  orRaise (storeBlock s (regBlock s x)) s fun m => advance (s.setMem m)

/-- LD Vx, [I] (R168): V0..Vx from I..I+x. -/
def execLdVxMem (x : RegIx) (s : State) : Out :=
  orRaise (loadBlock s (x.toNat + 1)) s fun bs => advance (s.setRegs (loadRegs 0 bs s.v))

end Sys2Proof.Machine
end

