-- ==== Sys2Proof/Machine/TimerKey.lean ====
section
/-! DEFINITION. Timers and keys: the meanings of 43_timer_key. -/

namespace Sys2Proof.Machine

/-- LD Vx, DT (R180): DT before this tick's timer pass. -/
def execLdVxDt (x : RegIx) (s : State) : Out := advance (s.setV x s.dt)

/-- LD DT, Vx (R181). -/
def execLdDtVx (x : RegIx) (s : State) : Out := advance (s.setDt (s.getV x))

/-- LD ST, Vx (R182). -/
def execLdStVx (x : RegIx) (s : State) : Out := advance (s.setSt (s.getV x))

/-- SKP Vx (R184). -/
def execSkpVx (x : RegIx) (s : State) : Out := orRaise (readKey s (s.getV x)) s fun pressed => skipIf pressed s

/-- SKNP Vx (R185). -/
def execSknpVx (x : RegIx) (s : State) : Out := orRaise (readKey s (s.getV x)) s fun pressed => skipIf (!pressed) s

/-- LD Vx, K, first execution (R186): it only becomes pending; PC stays. -/
def execLdVxK (x : RegIx) (s : State) : Out := .next ((s.setPending (some x)).finish s.pc)

/-- LD Vx, K while pending (R187, 45_step_machine R236): with a key pressed it completes with the lowest one, else it waits. -/
def waitStep (x : RegIx) (s : State) : Out :=
  match lowestKey s.keys with
  | some k => advance ((s.setV x (BitVec.ofNat 8 k)).setPending none)
  | none => .next (s.finish s.pc)

end Sys2Proof.Machine
end

