-- ==== Sys2Proof/Machine/Tick.lean ====
section
/-! DEFINITION. One tick: a step of the two-state step machine, then the timer pass (45_step_machine R231 to R237). -/

namespace Sys2Proof.Machine

/-- The two bytes at PC as a big-endian word; the range is checked first (20_memory R53, R56). -/
def fetchWord (s : State) : Except CoreError Word :=
  match firstAbsent s.pc.toNat 2 with
  | some a => .error (.outOfRangeAccess (.mem a))
  | none => .ok (memRead s.mem s.pc.toNat ++ memRead s.mem (s.pc.toNat + 1))

/-- Fetch, then decode (45_step_machine R233; the order of checks is 60_exceptions R268). -/
def fetchInstr (s : State) : Except CoreError Instr :=
  match fetchWord s with
  | .error e => .error e
  | .ok w =>
    match decode w with
    | .ok i => .ok i
    | .error _ => .error (.unsupportedOpcode w)

/-- A step in the Idle state (45_step_machine R233, R234). -/
def idleStep (s : State) : Out := orRaise (fetchInstr s) s fun i => exec i s

/-- A step of the step machine, which never reads halted (45_step_machine R232, R236, R238). -/
def coreStep (s : State) : Out :=
  match s.pending with
  | none => idleStep s
  | some x => waitStep x s

/-- What ends a tick: the timer pass, on every tick, and the count of ticks (45_step_machine R231, R237). -/
def endTick (elapsed : Nat) (s : State) : State :=
  { timerPass elapsed s with elapsedIn := s.elapsedIn.tail, ticks := s.ticks + 1 }

/-- End the tick of a step that answered a next state. -/
def afterStep (elapsed : Nat) : Out → Out
  | .next s => .next (endTick elapsed s)
  | .fault r => .fault r
  | .refused r => .refused r

/-- `tick(elapsed)` (45_step_machine R231). -/
def tick (elapsed : Nat) (s : State) : Out := afterStep elapsed (coreStep s)

/-- The argument of the next tick: the one the caller has fixed, else a free value (45_step_machine R230; log entry 3). -/
def nextElapsed (s : State) : Nat := s.elapsedIn.headD (Config.elapsed s.ticks)

/-- Where a word is placed so that the next step fetches it: PC, or the entry point if no fetch at PC is possible. -/
def fetchAddr (s : State) : Word := if s.pc.toNat + 2 ≤ memSize then s.pc else 0x200

end Sys2Proof.Machine
end

