-- ==== Sys2Proof/Machine/Step.lean ====
section
/-! DEFINITION. The step of the machine: one tick (45_step_machine R231). -/

namespace Sys2Proof.Machine

/-- One tick, with the elapsed time the state holds for it, or a free one (45_step_machine R230, R231). -/
def step (s : State) : Host.Outcome State Fault Refusal := tick (nextElapsed s) s

/-- The state with an instruction word stored where the next step fetches it; a pending instruction is dropped, since a Waiting
step fetches nothing, and a PC no fetch is possible from becomes the entry point (log entry 12). -/
def State.withFetchWord (s : State) (nbits w : Nat) : State :=
  { s with
    pc := fetchAddr s
    pending := none
    mem := writeBytes s.mem (fetchAddr s).toNat (wordBytes (tableWord nbits w)) }

end Sys2Proof.Machine
end

