-- ==== Sys2Proof/Machine/HostPort.lean ====
section
/-! DEFINITION. The ports through which the host reaches the CORE between ticks (45_step_machine R230, R240 to R247). They are no
part of a step. Reset is construction anew, `State.reset` (70_reset_and_hazards R300), and `tick` is in Tick.lean. -/

namespace Sys2Proof.Machine

/-- Key input: set or clear one key state (45_step_machine R246). -/
def setKey (k : Fin 16) (pressed : Bool) (s : State) : State := { s with keys := s.keys.set k.val pressed }

/-- Dirty clear (45_step_machine R245). -/
def clearDirty (s : State) : State := { s with dirty := false }

/-- Frame output: the grid and the dirty flag, read only (45_step_machine R245). -/
def frameOut (s : State) : Display × Bool := (s.disp, s.dirty)

/-- The halted port (45_step_machine R230). -/
def haltedOut (s : State) : Bool := s.halted

/-- Where a program is loaded (70_reset_and_hazards R305). -/
def loadAddr : Nat := 0x200

/-- Whether the host may still load: it has not loaded since reset, and no tick has run (70_reset_and_hazards R305; 92 D32). -/
def mayLoad (s : State) : Bool := !s.loaded && s.ticks == 0

/-- Program load: byte i of the image at 0x200 + i, once, before the first tick; a longer image never reaches the CORE
(70_reset_and_hazards R305; 92 D32). -/
def loadProgram (image : List Byte) (s : State) : Option State :=
  if mayLoad s = true ∧ loadAddr + image.length ≤ memSize then some (s.setMem (writeBytes s.mem loadAddr image)).markLoaded
  else none

/-- The caller fixes the `elapsed` arguments of the coming ticks (45_step_machine R230; log entry 3). -/
def giveElapsed (l : List Nat) (s : State) : State := { s with elapsedIn := l }

/-- What the host can do between ticks. -/
inductive HostAction where
  /-- Set or clear a key state. -/
  | key (k : Fin 16) (pressed : Bool)
  /-- Clear the dirty flag. -/
  | clearDirty
  /-- Load a program. -/
  | load (image : List Byte)
  /-- Fix the elapsed time of the coming ticks. -/
  | elapsed (l : List Nat)
  deriving DecidableEq, Repr

/-- The state after a host action; none where the action cannot reach the CORE. -/
def hostAct : HostAction → State → Option State
  | .key k pressed, s => some (setKey k pressed s)
  | .clearDirty, s => some (clearDirty s)
  | .load image, s => loadProgram image s
  | .elapsed l, s => some (giveElapsed l s)

end Sys2Proof.Machine
end

