-- ==== Sys2Proof/Safety.lean ====
section
/-! DEFINITION. The terms that claims use: what a step may change, what a safe run is, the invariant of the machine, the states a
run with its host can reach, and the spec's own words for the timer loop, the sprite and the next PC. -/

namespace Sys2Proof.Machine

/-- The pieces of state other than PC and the outcome. -/
inductive Part where
  | regs | index | delay | sound | stack | keys | display | memory | pending | halted | dirty | acc | ports | draws | loaded
  deriving DecidableEq, Repr

/-- A piece of state is the same in two states; memory is the same when every byte reads the same. -/
def SamePart (s t : State) : Part → Prop
  | .regs => ∀ x, t.getV x = s.getV x
  | .index => t.index = s.index
  | .delay => t.dt = s.dt
  | .sound => t.st = s.st
  | .stack => t.stack = s.stack
  | .keys => t.keys = s.keys
  | .display => t.disp = s.disp
  | .memory => ∀ a, memRead t.mem a = memRead s.mem a
  | .pending => t.pending = s.pending
  | .halted => t.halted = s.halted
  | .dirty => t.dirty = s.dirty
  | .acc => t.acc = s.acc
  | .ports => t.elapsedIn = s.elapsedIn ∧ t.ticks = s.ticks
  | .draws => t.draws = s.draws
  | .loaded => t.loaded = s.loaded

/-- From s to t nothing but the listed pieces, PC and the outcome has changed. -/
def Frame (changed : List Part) (s t : State) : Prop := ∀ p, p ∉ changed → SamePart s t p

/-- A step that reports no error. -/
def StepSafe (s : State) : Prop := ∃ t, step s = .next t ∧ t.outcome = .ok

/-- A run of k ticks none of which reports an error. -/
def RunSafe : Nat → State → Prop
  | 0, _ => True
  | k + 1, s => ∃ t, step s = .next t ∧ t.outcome = .ok ∧ RunSafe k t

/-- Apply a function to the state a step answers. -/
def mapNext (f : State → State) : Out → Out
  | .next s => .next (f s)
  | .fault r => .fault r
  | .refused r => .refused r

/-- The invariant of the machine: canonical memory, at most 16 return addresses (10_state R30), no PC or return address beyond
what R25 allows, a waiting LD Vx,K that was fetched, an accumulator below one interval (60_exceptions R285), and halted after
an error (60_exceptions R266). -/
structure MachineInv (s : State) : Prop where
  memCanonical : s.mem.wf
  stackBounded : s.stack.length ≤ 16
  returnsBounded : ∀ w ∈ s.stack, w.toNat ≤ 0x1000
  pcBounded : s.pc.toNat ≤ 0x10FE
  pendingFetched : s.pending ≠ none → s.pc.toNat ≤ 0xFFE
  accBounded : s.acc < 1000000
  errorHalts : s.outcome ≠ .ok → s.halted = true

/-- The states that ticks and host actions between them reach from reset (45_step_machine R240). -/
inductive Reachable : State → Prop where
  | reset : Reachable State.reset
  | tick {s t : State} (hs : Reachable s) (h : step s = .next t) : Reachable t
  | host {s t : State} (a : HostAction) (hs : Reachable s) (h : hostAct a s = some t) : Reachable t

/-- The loop of 60_exceptions R285 on DT, ST and Acc, with a bound on its turns. -/
def decayLoop : Nat → Byte × Byte × Nat → Byte × Byte × Nat
  | 0, p => p
  | n + 1, (dt, st, acc) =>
    if acc ≥ 1000000 then
      decayLoop n (if dt > 0 then dt - 1 else dt, if st > 0 then st - 1 else st, acc - 1000000)
    else (dt, st, acc)

/-- Whether key k is pressed (10_state R34). -/
def keyDown (s : State) (k : Nat) : Prop := s.keys.toList[k]? = some true

/-- Whether a sprite drawn at (x0, y0) has a set bit on the cell of row r < 32 and column c < 64: row i of the sprite lies on row
(y0 + i) mod 32, and its bit 7-j on column (x0 + j) mod 64 (44_display_random R202, R204). -/
def SpriteCovers (x0 y0 : Byte) (sprite : List Byte) (r c : Nat) : Prop :=
  ∃ i j b, sprite[i]? = some b ∧ j < 8 ∧ (y0.toNat + i) % 32 = r ∧ (x0.toNat + j) % 64 = c ∧ b.getLsbD (7 - j) = true

/-- The byte pair at PC as a number, big-endian (20_memory R53). -/
def wordAtPc (s : State) : Nat := 256 * (memRead s.mem s.pc.toNat).toNat + (memRead s.mem (s.pc.toNat + 1)).toNat

/-- The PC rule of each instruction that raises nothing (10_state R24). -/
def pcAfter (i : Instr) (s : State) : Word :=
  match i with
  | .jpAddr nnn => nnn.setWidth 16
  | .callAddr nnn => nnn.setWidth 16
  | .jpV0Addr nnn => nnn.setWidth 16 + (s.getV 0).setWidth 16
  | .ret => s.stack.getLastD s.pc
  | .seVxByte x kk => if s.getV x = kk then s.pc + 4 else s.pc + 2
  | .sneVxByte x kk => if s.getV x ≠ kk then s.pc + 4 else s.pc + 2
  | .seVxVy x y => if s.getV x = s.getV y then s.pc + 4 else s.pc + 2
  | .sneVxVy x y => if s.getV x ≠ s.getV y then s.pc + 4 else s.pc + 2
  | .skpVx x => if s.keys.toList[(s.getV x).toNat]? = some true then s.pc + 4 else s.pc + 2
  | .sknpVx x => if s.keys.toList[(s.getV x).toNat]? = some false then s.pc + 4 else s.pc + 2
  | .ldVxK _ => s.pc
  | _ => s.pc + 2

/-- The error, if any, that an instruction raises in a state (60_exceptions sections 1 and 2). -/
def errorOf (i : Instr) (s : State) : Option CoreError :=
  match i with
  | .callAddr _ => if 16 ≤ s.stack.length then some (.callStackOverflow s.pc) else none
  | .ret => if s.stack = [] then some (.emptyStackReturn s.pc) else none
  | .drwVxVy _ _ n =>
    if n.toNat > 0 ∧ s.index.toNat + n.toNat - 1 > 0xFFF then some (.outOfRangeAccess (.mem (max s.index.toNat 0x1000)))
    else none
  | .ldBVx _ => if s.index.toNat + 2 > 0xFFF then some (.outOfRangeAccess (.mem (max s.index.toNat 0x1000))) else none
  | .ldMemVx x =>
    if s.index.toNat + x.toNat > 0xFFF then some (.outOfRangeAccess (.mem (max s.index.toNat 0x1000))) else none
  | .ldVxMem x =>
    if s.index.toNat + x.toNat > 0xFFF then some (.outOfRangeAccess (.mem (max s.index.toNat 0x1000))) else none
  | .skpVx x => if (s.getV x).toNat > 15 then some (.outOfRangeAccess (.key (s.getV x))) else none
  | .sknpVx x => if (s.getV x).toNat > 15 then some (.outOfRangeAccess (.key (s.getV x))) else none
  | _ => none

end Sys2Proof.Machine
end

