-- ==== Sys2Proof/Certificates/Slice0/Obligations.lean ====
section
/-! DEFINITION. The statements for the provers, one definition each. Where a docstring says "the spec's own decision", the clause
rests on a choice that spec/ marks as its own (92_eei_decisions) or as derived. Where a statement names an encoding, the bit pattern
is the rule's, which the spec supplies by its decision D1 (log entry 13). -/

open Sys2Proof Sys2Proof.Machine

/-! ### Decoder -/

/-- Decoding the word of any instruction gives it back with every operand (30_encoding section 3; the property W1). -/
def Obligations.DecodeOfEncode : Prop := ∀ i : Instr, decode (encode i) = .ok i

/-- A word that decodes is the word of the instruction it decodes to: no bit of it is dropped (30_encoding section 3). -/
def Obligations.EncodeOfDecode : Prop := ∀ (w : Word) (i : Instr), decode w = .ok i → encode i = w

/-- The decoder follows the mask and match columns of the decode table: a word decodes exactly when it matches a row, and then to
an instruction of a row it matches; else it is unsupported (30_encoding section 3; the patterns are the spec's decision D1). -/
def Obligations.DecodeFollowsTable : Prop :=
  ∀ w : Word,
    (∀ i, decode w = .ok i → i.row ∈ rows ∧ i.row.covers w = true) ∧
    (inTable w = true → ∃ i, decode w = .ok i) ∧
    (inTable w = false → decode w = .error (.unsupportedOpcode w))

/-- No word matches two rows of the decode table (30_encoding section 3). -/
def Obligations.TableRowsDisjoint : Prop :=
  rows.length = 34 ∧ rows.Pairwise fun r q => ∀ w : Word, ¬(r.covers w = true ∧ q.covers w = true)

/-- R87, R88, R90, R91: exactly which words of families 0x5, 0x8, 0xE and 0xF are unsupported (the patterns are the spec's
decision D1). -/
def Obligations.MalformedSubcasesUnsupported : Prop :=
  ∀ w : Word,
    (w.toNat / 4096 = 0x5 → (decode w = .error (.unsupportedOpcode w) ↔ w.toNat % 16 ≠ 0)) ∧
    (w.toNat / 4096 = 0x8 → (decode w = .error (.unsupportedOpcode w) ↔
      w.toNat % 16 ∈ [0x8, 0x9, 0xA, 0xB, 0xC, 0xD, 0xF])) ∧
    (w.toNat / 4096 = 0xE → (decode w = .error (.unsupportedOpcode w) ↔ w.toNat % 256 ∉ [0x9E, 0xA1])) ∧
    (w.toNat / 4096 = 0xF → (decode w = .error (.unsupportedOpcode w) ↔
      w.toNat % 256 ∉ [0x07, 0x0A, 0x15, 0x18, 0x1E, 0x29, 0x33, 0x55, 0x65]))

/-- Families 0x0 and 0x9, where the spec decides (D2, D3), and the ten families with no unsupported word; with that the checks of
WellFormed.lean say exactly which words decode (30_encoding section 4). -/
def Obligations.SupportedWordsExactly : Prop :=
  ∀ w : Word,
    (w.toNat / 4096 = 0x0 → (decode w = .error (.unsupportedOpcode w) ↔ w ≠ 0x00E0 ∧ w ≠ 0x00EE)) ∧
    (w.toNat / 4096 = 0x9 → (decode w = .error (.unsupportedOpcode w) ↔ w.toNat % 16 ≠ 0)) ∧
    (w.toNat / 4096 ∉ [0x0, 0x5, 0x8, 0x9, 0xE, 0xF] → ∃ i, decode w = .ok i) ∧
    (wellFormed w = true ↔ ∃ i, decode w = .ok i)

/-- The spec's own decode instances W1 and two unsupported words (95_test_vectors). A sanity statement. -/
def Obligations.SampleWordsDecode : Prop :=
  decode 0x6A02 = .ok (.ldVxByte 0xA 0x02) ∧ decode 0xD125 = .ok (.drwVxVy 1 2 5) ∧
  decode 0x2ABC = .ok (.callAddr 0xABC) ∧ decode 0x8AB4 = .ok (.addVxVy 0xA 0xB) ∧
  decode 0xF733 = .ok (.ldBVx 7) ∧ decode 0xE3A1 = .ok (.sknpVx 3) ∧
  decode 0x00EE = .ok .ret ∧ decode 0xB123 = .ok (.jpV0Addr 0x123) ∧
  decode 0x9121 = .error (.unsupportedOpcode 0x9121) ∧ decode 0xF01F = .error (.unsupportedOpcode 0xF01F)

/-! ### The step machine -/

/-- R53, R233: an Idle step checks the fetch range, fetches a big-endian word, decodes it, and raises or executes; an instruction
that raises nothing writes the next PC, and LD Vx,K alone makes the state Waiting (the range error is the spec's decision D8). -/
def Obligations.IdleStepFetchesDecodesExecutes : Prop :=
  ∀ s : State, s.pending = none →
    (0xFFE < s.pc.toNat → coreStep s = raise (.outOfRangeAccess (.mem (max s.pc.toNat 0x1000))) s) ∧
    (s.pc.toNat ≤ 0xFFE → ∀ w : Word,
      w.toNat = 256 * (memRead s.mem s.pc.toNat).toNat + (memRead s.mem (s.pc.toNat + 1)).toNat →
      (decode w = .error (.unsupportedOpcode w) → coreStep s = raise (.unsupportedOpcode w) s) ∧
      (∀ i, decode w = .ok i → coreStep s = exec i s ∧
        ∀ t, exec i s = .next t → t.outcome = .ok → t.pc = pcAfter i s ∧ (t.pending ≠ none ↔ ∃ x, i = .ldVxK x)))

/-- When the bytes at PC decode to i, the step is exec of i, and around it the tick adds the timer pass, one tick to the count and
the use of one elapsed value, given or free (log entries 3 and 4 for those two fields of the model's own). -/
def Obligations.StepRunsDecodedInstruction : Prop :=
  ∀ (s t : State) (i : Instr), s.pending = none → s.pc.toNat ≤ 0xFFE →
    decode (memRead s.mem s.pc.toNat ++ memRead s.mem (s.pc.toNat + 1)) = .ok i → exec i s = .next t →
    step s = .next { t with
      dt := BitVec.ofNat 8 (t.dt.toNat - (t.acc + 60 * nextElapsed s) / 1000000)
      st := BitVec.ofNat 8 (t.st.toNat - (t.acc + 60 * nextElapsed s) / 1000000)
      acc := (t.acc + 60 * nextElapsed s) % 1000000
      elapsedIn := s.elapsedIn.tail
      ticks := s.ticks + 1 }

/-- Every tick answers a next state, whatever the state: nothing stops the CORE, and no instruction is refused
(60_exceptions section 1: errors never abort; the effect of an error is the spec's decision D5). -/
def Obligations.EveryStepAnswersNext : Prop :=
  (∀ (i : Instr) (s : State), ∃ t, exec i s = .next t) ∧ ∀ s : State, ∃ t, step s = .next t

/-- R236: a step in the Waiting state fetches, decodes and executes nothing (it is the same whatever memory holds); it completes
when the predicate holds (some key is pressed), else it changes nothing; it never raises. -/
def Obligations.WaitingStepReevaluates : Prop :=
  ∀ (s : State) (x : RegIx), s.pending = some x →
    ∃ t, coreStep s = .next t ∧ t.outcome = .ok ∧
      ((∃ k, keyDown s k) → t.pending = none ∧ t.pc = s.pc + 2 ∧ Frame [.regs, .pending] s t ∧
        keyDown s (t.getV x).toNat ∧ ∀ y, y ≠ x → t.getV y = s.getV y) ∧
      ((¬∃ k, keyDown s k) → t.pc = s.pc ∧ Frame [] s t) ∧
      ∀ m : Memory, coreStep { s with mem := m } = .next { t with mem := m }

/-- LD Vx,K completes with the lowest pressed key in Vx (43_timer_key section 2; the lowest is the spec's decision D17). -/
def Obligations.KeyWaitTakesLowestKey : Prop :=
  ∀ (s : State) (x : RegIx) (k : Nat), s.pending = some x → keyDown s k → (∀ j < k, ¬keyDown s j) →
    ∃ t, step s = .next t ∧ t.outcome = .ok ∧ (t.getV x).toNat = k ∧ t.pending = none ∧ t.pc = s.pc + 2

/-- While no key is pressed a key wait holds over any number of ticks: PC, the registers, the stack, memory and the display stay,
and the machine stays in Waiting (43_timer_key section 2; the property W8). -/
def Obligations.KeyWaitHoldsWithoutKey : Prop :=
  ∀ (n : Nat) (s : State) (x : RegIx), s.pending = some x → (∀ k, ¬keyDown s k) →
    ∃ t, Host.Core.run core n s = .next t ∧ Frame [.delay, .sound, .acc, .ports] s t ∧ t.pc = s.pc

/-- R232: two states, Idle at reset; Idle to Waiting only by executing LD Vx,K; Waiting to Idle only when the predicate holds; no
other transition, by a tick or by the host. -/
def Obligations.TwoStatesOnly : Prop :=
  State.reset.pending = none ∧
  (∀ (a : HostAction) (s t : State), hostAct a s = some t → t.pending = s.pending) ∧
  ∀ s t : State, step s = .next t →
    (s.pending = none → ∀ x, t.pending = some x ↔ fetchInstr s = .ok (.ldVxK x)) ∧
    (∀ x, s.pending = some x →
      ((∃ k, keyDown s k) → t.pending = none) ∧ ((¬∃ k, keyDown s k) → t.pending = some x))

/-- R24: PC after a tick is PC+2, PC+4, a target, or unchanged, each in exactly the cases the rule names (unchanged on an error is
the spec's decision D5). -/
def Obligations.PcWritesOfATick : Prop :=
  ∀ s t : State, step s = .next t →
    (∀ x, s.pending = some x →
      ((∃ k, keyDown s k) → t.pc = s.pc + 2) ∧ ((¬∃ k, keyDown s k) → t.pc = s.pc)) ∧
    (s.pending = none →
      (t.outcome ≠ .ok → t.pc = s.pc) ∧
      (t.outcome = .ok → ∃ i, fetchInstr s = .ok i ∧ t.pc = pcAfter i s))

/-! ### Timers -/

/-- The timer pass is the spec's loop: decrement both timers and take one interval off while the accumulator holds one
(60_exceptions section 6; the unit is the spec's decision D26). -/
def Obligations.TimerPassIsTheLoop : Prop :=
  ∀ (e n : Nat) (s : State), s.acc + 60 * e < (n + 1) * 1000000 →
    decayLoop n (s.dt, s.st, s.acc + 60 * e) =
      ((timerPass e s).dt, (timerPass e s).st, (timerPass e s).acc)

/-- R283: a timer at 0 stays at 0, no timer grows, and neither timer's decay depends on the other. -/
def Obligations.TimersFloorSeparately : Prop :=
  ∀ (e : Nat) (s : State),
    (s.dt = 0 → (timerPass e s).dt = 0) ∧ (s.st = 0 → (timerPass e s).st = 0) ∧
    (timerPass e s).dt.toNat ≤ s.dt.toNat ∧ (timerPass e s).st.toNat ≤ s.st.toNat ∧
    (∀ b : Byte, (timerPass e { s with dt := b }).st = (timerPass e s).st ∧
      (timerPass e { s with st := b }).dt = (timerPass e s).dt) ∧
    ∃ k, (timerPass e s).dt.toNat = s.dt.toNat - k ∧ (timerPass e s).st.toNat = s.st.toNat - k

/-- Time is not lost: any split of the elapsed time into passes leaves the timers and the accumulator as one pass does
(60_exceptions section 6; the property W7; exact arithmetic is the spec's decision D26). -/
def Obligations.TimerPassSplitsFreely : Prop :=
  ∀ (l : List Nat) (s : State), s.acc < 1000000 → l.foldl (fun t e => timerPass e t) s = timerPass l.sum s

/-- The timer pass runs on every tick, after the step, in Idle, in Waiting and after an error: only LD DT,Vx and LD ST,Vx put
another value under it (45_step_machine section 2; the spec's decision D11). -/
def Obligations.TimerPassOnEveryTick : Prop :=
  ∀ s t : State, step s = .next t →
    let k := (s.acc + 60 * nextElapsed s) / 1000000
    t.acc = (s.acc + 60 * nextElapsed s) % 1000000 ∧ t.ticks = s.ticks + 1 ∧ t.elapsedIn = s.elapsedIn.tail ∧
    (∀ x, s.pending = none → fetchInstr s = .ok (.ldDtVx x) → t.dt.toNat = (s.getV x).toNat - k) ∧
    ((∀ x, ¬(s.pending = none ∧ fetchInstr s = .ok (.ldDtVx x))) → t.dt.toNat = s.dt.toNat - k) ∧
    (∀ x, s.pending = none → fetchInstr s = .ok (.ldStVx x) → t.st.toNat = (s.getV x).toNat - k) ∧
    ((∀ x, ¬(s.pending = none ∧ fetchInstr s = .ok (.ldStVx x))) → t.st.toNat = s.st.toNat - k)

/-! ### Errors -/

/-- An instruction that raises leaves its prior state: only halted is set and the outcome says the error; and a tick whose fetch or
decode fails reports it with PC and all else as it was, but for halted and the timer pass (60_exceptions section 2,
45_step_machine section 2; the spec's decision D5). -/
def Obligations.ErrorLeavesPriorState : Prop :=
  (∀ (i : Instr) (s t : State) (e : CoreError), exec i s = .next t → t.outcome = .error e →
    t = { s with halted := true, outcome := .error e }) ∧
  ∀ s : State, s.pending = none →
    (0xFFE < s.pc.toNat → ∃ t, step s = .next t ∧
      t.outcome = .error (.outOfRangeAccess (.mem (max s.pc.toNat 0x1000))) ∧ t.pc = s.pc ∧ t.halted = true ∧
      Frame [.delay, .sound, .acc, .ports, .halted] s t) ∧
    (s.pc.toNat ≤ 0xFFE → ∀ w : Word, w.toNat = wordAtPc s → decode w = .error (.unsupportedOpcode w) →
      ∃ t, step s = .next t ∧ t.outcome = .error (.unsupportedOpcode w) ∧ t.pc = s.pc ∧ t.halted = true ∧
        Frame [.delay, .sound, .acc, .ports, .halted] s t)

/-- Which instruction raises which error and when; every other execution ends with Ok (60_exceptions sections 1 and 2; the bounds
are the spec's decisions D5 to D9; 16 or more entries counts as a full stack, log entry 10). -/
def Obligations.ErrorCausesExactly : Prop :=
  ∀ (i : Instr) (s t : State), exec i s = .next t →
    t.outcome = match errorOf i s with
      | some e => .error e
      | none => .ok

/-- A tick that reported an error is followed by a tick that reports the same error, with only the timers and the tick's own counts
moved (45_step_machine section 2; the spec's decision D5). -/
def Obligations.ErrorRepeatsOnNextTick : Prop :=
  ∀ (s t : State) (e : CoreError), step s = .next t → t.outcome = .error e →
    ∃ u, step t = .next u ∧ u.outcome = .error e ∧ u.pc = t.pc ∧ u.halted = true ∧
      Frame [.delay, .sound, .acc, .ports] t u

/-- The codes of the outcomes (60_exceptions section 1; the numbers are the spec's decision D10). -/
def Obligations.OutcomeCodesDistinguishKinds : Prop :=
  outcomeCode .ok = 0 ∧
  ∀ (o : TickOutcome), (outcomeCode o = 1 ↔ ∃ w, o = .error (.unsupportedOpcode w)) ∧
    (outcomeCode o = 2 ↔ ∃ w, o = .error (.callStackOverflow w)) ∧
    (outcomeCode o = 3 ↔ ∃ w, o = .error (.emptyStackReturn w)) ∧
    (outcomeCode o = 4 ↔ ∃ a, o = .error (.outOfRangeAccess a))

/-- halted is never cleared by a tick and never read by one: the same tick with another value of halted gives the same state but for
halted (45_step_machine section 2; 90_conflicts C4). -/
def Obligations.HaltedNeitherClearedNorRead : Prop :=
  ∀ s t : State, step s = .next t →
    (s.halted = true → t.halted = true) ∧
    ∀ b, ∃ u, step { s with halted := b } = .next u ∧ { u with halted := t.halted } = t

/-! ### Control flow -/

/-- R105 to R108: the four compare-and-skip instructions, with their encodings; they change nothing but PC; PC + 4 is exact, and
beyond 0xFFE the next fetch reports it (that error is the spec's decision D8). -/
def Obligations.SkipsCompareAndAdvance : Prop :=
  ∀ (s : State) (x y : RegIx) (kk : Byte),
    (decode (0x3#4 ++ x ++ kk) = .ok (.seVxByte x kk) ∧ decode (0x4#4 ++ x ++ kk) = .ok (.sneVxByte x kk) ∧
      decode (0x5#4 ++ x ++ y ++ 0x0#4) = .ok (.seVxVy x y) ∧ decode (0x9#4 ++ x ++ y ++ 0x0#4) = .ok (.sneVxVy x y)) ∧
    (∃ t, exec (.seVxByte x kk) s = .next t ∧ t.outcome = .ok ∧ Frame [] s t ∧
      t.pc = if (s.getV x).toNat = kk.toNat then s.pc + 4 else s.pc + 2) ∧
    (∃ t, exec (.sneVxByte x kk) s = .next t ∧ t.outcome = .ok ∧ Frame [] s t ∧
      t.pc = if (s.getV x).toNat = kk.toNat then s.pc + 2 else s.pc + 4) ∧
    (∃ t, exec (.seVxVy x y) s = .next t ∧ t.outcome = .ok ∧ Frame [] s t ∧
      t.pc = if (s.getV x).toNat = (s.getV y).toNat then s.pc + 4 else s.pc + 2) ∧
    (∃ t, exec (.sneVxVy x y) s = .next t ∧ t.outcome = .ok ∧ Frame [] s t ∧
      t.pc = if (s.getV x).toNat = (s.getV y).toNat then s.pc + 2 else s.pc + 4) ∧
    (s.pc.toNat ≤ 0xFFE → (s.pc + 4).toNat = s.pc.toNat + 4 ∧ (s.pc + 4).toNat ≤ 0x1002) ∧
    ∀ t : State, 0xFFE < t.pc.toNat → fetchInstr t = .error (.outOfRangeAccess (.mem (max t.pc.toNat 0x1000)))

/-- JP addr sets PC, and halted only when it jumps to itself; JP V0,addr adds V0, always V0, and never sets halted
(40_control_flow section 2; the spec's decisions D22, D23). -/
def Obligations.JumpsSetPc : Prop :=
  ∀ (s : State) (nnn : Addr),
    (∃ t, exec (.jpAddr nnn) s = .next t ∧ t.outcome = .ok ∧ t.pc.toNat = nnn.toNat ∧ Frame [.halted] s t ∧
      (nnn.toNat = s.pc.toNat → t.halted = true) ∧ (nnn.toNat ≠ s.pc.toNat → t.halted = s.halted)) ∧
    (∃ t, exec (.jpV0Addr nnn) s = .next t ∧ t.outcome = .ok ∧ t.pc.toNat = nnn.toNat + (s.getV 0).toNat ∧
      Frame [] s t)

/-- R31, R33: the stack is written by CALL and RET only, in any tick and by no host action; CALL pushes PC+2 on top
and RET pops the top, each with its error at the bound and the stack then unchanged (what follows these errors is the spec's decisions D6, D7). -/
def Obligations.StackWrittenByCallAndRet : Prop :=
  (∀ (i : Instr) (s t : State), (∀ nnn, i ≠ .callAddr nnn) → i ≠ .ret → exec i s = .next t → t.stack = s.stack) ∧
  (∀ s t : State, step s = .next t → t.stack ≠ s.stack →
    s.pending = none ∧ (fetchInstr s = .ok .ret ∨ ∃ nnn, fetchInstr s = .ok (.callAddr nnn))) ∧
  (∀ (a : HostAction) (s t : State), hostAct a s = some t → t.stack = s.stack) ∧
  ∀ (s : State) (nnn : Addr),
    (s.stack.length < 16 → ∃ t, exec (.callAddr nnn) s = .next t ∧ t.outcome = .ok ∧ t.stack = s.stack ++ [s.pc + 2] ∧
      t.pc.toNat = nnn.toNat ∧ Frame [.stack] s t) ∧
    (s.stack.length = 16 → ∃ t, exec (.callAddr nnn) s = .next t ∧ t.outcome = .error (.callStackOverflow s.pc) ∧
      t.stack = s.stack) ∧
    (∀ (l : List Word) (w : Word), s.stack = l ++ [w] →
      ∃ t, exec .ret s = .next t ∧ t.outcome = .ok ∧ t.stack = l ∧ t.pc = w ∧ Frame [.stack] s t) ∧
    (s.stack = [] → ∃ t, exec .ret s = .next t ∧ t.outcome = .error (.emptyStackReturn s.pc) ∧ t.stack = s.stack)

/-- R109: RET resumes at the word after the CALL, at the depth before it, and neither touches a register: for any state the callee
leaves with the stack it found. -/
def Obligations.CallThenRetResumes : Prop :=
  ∀ (s t u : State) (nnn : Addr), exec (.callAddr nnn) s = .next t → t.outcome = .ok → u.stack = t.stack →
    (∀ x, t.getV x = s.getV x) ∧ t.index = s.index ∧
    ∃ v, exec .ret u = .next v ∧ v.outcome = .ok ∧ v.pc = s.pc + 2 ∧ v.stack = s.stack ∧
      (∀ x, v.getV x = u.getV x) ∧ v.index = u.index

/-! ### ALU -/

/-- R130, R131: LD Vx,byte and ADD Vx,byte, with their encodings; no flag. -/
def Obligations.ImmediateLoadAndAdd : Prop :=
  ∀ (s : State) (x : RegIx) (kk : Byte),
    (decode (0x6#4 ++ x ++ kk) = .ok (.ldVxByte x kk) ∧ decode (0x7#4 ++ x ++ kk) = .ok (.addVxByte x kk)) ∧
    (∃ t, exec (.ldVxByte x kk) s = .next t ∧ t.outcome = .ok ∧ t.pc = s.pc + 2 ∧ Frame [.regs] s t ∧
      t.getV x = kk ∧ ∀ y, y ≠ x → t.getV y = s.getV y) ∧
    (∃ t, exec (.addVxByte x kk) s = .next t ∧ t.outcome = .ok ∧ t.pc = s.pc + 2 ∧ Frame [.regs] s t ∧
      (t.getV x).toNat = ((s.getV x).toNat + kk.toNat) % 256 ∧ ∀ y, y ≠ x → t.getV y = s.getV y)

/-- R133, R134, R135: OR, AND, XOR bit by bit, with their encodings; VF is not a flag destination. -/
def Obligations.LogicOperationsBitwise : Prop :=
  ∀ (s : State) (x y : RegIx),
    (decode (0x8#4 ++ x ++ y ++ 0x1#4) = .ok (.orVxVy x y) ∧ decode (0x8#4 ++ x ++ y ++ 0x2#4) = .ok (.andVxVy x y) ∧
      decode (0x8#4 ++ x ++ y ++ 0x3#4) = .ok (.xorVxVy x y)) ∧
    (∃ t, exec (.orVxVy x y) s = .next t ∧ t.outcome = .ok ∧ t.pc = s.pc + 2 ∧ Frame [.regs] s t ∧
      (∀ j < 8, (t.getV x).getLsbD j = ((s.getV x).getLsbD j || (s.getV y).getLsbD j)) ∧
      ∀ z, z ≠ x → t.getV z = s.getV z) ∧
    (∃ t, exec (.andVxVy x y) s = .next t ∧ t.outcome = .ok ∧ t.pc = s.pc + 2 ∧ Frame [.regs] s t ∧
      (∀ j < 8, (t.getV x).getLsbD j = ((s.getV x).getLsbD j && (s.getV y).getLsbD j)) ∧
      ∀ z, z ≠ x → t.getV z = s.getV z) ∧
    (∃ t, exec (.xorVxVy x y) s = .next t ∧ t.outcome = .ok ∧ t.pc = s.pc + 2 ∧ Frame [.regs] s t ∧
      (∀ j < 8, (t.getV x).getLsbD j = ((s.getV x).getLsbD j ^^ (s.getV y).getLsbD j)) ∧
      ∀ z, z ≠ x → t.getV z = s.getV z)

/-- LD Vx,Vy copies a register (41_alu section 3; the instruction is the spec's decision D22). -/
def Obligations.RegisterCopy : Prop :=
  ∀ (s : State) (x y : RegIx),
    ∃ t, exec (.ldVxVy x y) s = .next t ∧ t.outcome = .ok ∧ t.pc = s.pc + 2 ∧ Frame [.regs] s t ∧
      t.getV x = s.getV y ∧ ∀ z, z ≠ x → t.getV z = s.getV z

/-- R136: ADD Vx,Vy, the wrapping sum and the carry in VF, which stands when x is 0xF (the spec's decision D18). -/
def Obligations.AddSumAndCarry : Prop :=
  ∀ (s : State) (x y : RegIx),
    decode (0x8#4 ++ x ++ y ++ 0x4#4) = .ok (.addVxVy x y) ∧
    ∃ t, exec (.addVxVy x y) s = .next t ∧ t.outcome = .ok ∧ t.pc = s.pc + 2 ∧ Frame [.regs] s t ∧
      (t.getV 0xF).toNat = (if (s.getV x).toNat + (s.getV y).toNat > 255 then 1 else 0) ∧
      (x ≠ 0xF → (t.getV x).toNat = ((s.getV x).toNat + (s.getV y).toNat) % 256) ∧
      ∀ z, z ≠ x → z ≠ 0xF → t.getV z = s.getV z

/-- R137, R139: SUB and SUBN, the wrapping differences and the inverted borrow in VF, which stands when x is 0xF (the spec's
decision D18). -/
def Obligations.SubtractionsAndBorrow : Prop :=
  ∀ (s : State) (x y : RegIx),
    (decode (0x8#4 ++ x ++ y ++ 0x5#4) = .ok (.subVxVy x y) ∧ decode (0x8#4 ++ x ++ y ++ 0x7#4) = .ok (.subnVxVy x y)) ∧
    (∃ t, exec (.subVxVy x y) s = .next t ∧ t.outcome = .ok ∧ t.pc = s.pc + 2 ∧ Frame [.regs] s t ∧
      (t.getV 0xF).toNat = (if (s.getV x).toNat ≥ (s.getV y).toNat then 1 else 0) ∧
      (x ≠ 0xF → ((t.getV x).toNat : Int) = ((s.getV x).toNat - (s.getV y).toNat : Int) % 256) ∧
      ∀ z, z ≠ x → z ≠ 0xF → t.getV z = s.getV z) ∧
    (∃ t, exec (.subnVxVy x y) s = .next t ∧ t.outcome = .ok ∧ t.pc = s.pc + 2 ∧ Frame [.regs] s t ∧
      (t.getV 0xF).toNat = (if (s.getV y).toNat ≥ (s.getV x).toNat then 1 else 0) ∧
      (x ≠ 0xF → ((t.getV x).toNat : Int) = ((s.getV y).toNat - (s.getV x).toNat : Int) % 256) ∧
      ∀ z, z ≠ x → z ≠ 0xF → t.getV z = s.getV z)

/-- R138, R140: SHR and SHL by one bit, the bit shifted out in VF, which stands when x is 0xF (the spec's decision D18); Vy
is neither read nor written. -/
def Obligations.ShiftsByOne : Prop :=
  ∀ (s : State) (x y : RegIx),
    (decode (0x8#4 ++ x ++ y ++ 0x6#4) = .ok (.shrVx x y) ∧ decode (0x8#4 ++ x ++ y ++ 0xE#4) = .ok (.shlVx x y)) ∧
    (∃ t, exec (.shrVx x y) s = .next t ∧ t.outcome = .ok ∧ t.pc = s.pc + 2 ∧ Frame [.regs] s t ∧
      (t.getV 0xF).toNat = (s.getV x).toNat % 2 ∧ (x ≠ 0xF → (t.getV x).toNat = (s.getV x).toNat / 2) ∧
      ∀ z, z ≠ x → z ≠ 0xF → t.getV z = s.getV z) ∧
    (∃ t, exec (.shlVx x y) s = .next t ∧ t.outcome = .ok ∧ t.pc = s.pc + 2 ∧ Frame [.regs] s t ∧
      (t.getV 0xF).toNat = (s.getV x).toNat / 128 ∧ (x ≠ 0xF → (t.getV x).toNat = 2 * (s.getV x).toNat % 256) ∧
      ∀ z, z ≠ x → z ≠ 0xF → t.getV z = s.getV z)

/-- Which instructions write VF: the six flag writers; any other changes VF only where it names register 0xF as its destination
(10_state section 10; the spec's decisions D18, D19). -/
def Obligations.FlagWritersOnly : Prop :=
  ∀ (i : Instr) (s t : State), exec i s = .next t → t.getV 0xF ≠ s.getV 0xF →
    (∃ x y, i = .addVxVy x y ∨ i = .subVxVy x y ∨ i = .shrVx x y ∨ i = .subnVxVy x y ∨ i = .shlVx x y) ∨
    (∃ x y n, i = .drwVxVy x y n) ∨
    (∃ kk, i = .ldVxByte 0xF kk ∨ i = .addVxByte 0xF kk ∨ i = .rndVxByte 0xF kk) ∨
    (∃ y, i = .ldVxVy 0xF y ∨ i = .orVxVy 0xF y ∨ i = .andVxVy 0xF y ∨ i = .xorVxVy 0xF y) ∨
    i = .ldVxDt 0xF ∨ i = .ldVxMem 0xF

/-! ### Memory and index -/

/-- LD I,addr, ADD I,Vx and LD F,Vx: what they write to I, that VF stays, and that no other instruction writes I
(42_memory_index sections 1 and 2, 10_state section 3; the spec's decisions D19, D20 and its own derivation). -/
def Obligations.IndexWrites : Prop :=
  (∀ (i : Instr) (s t : State), exec i s = .next t → t.index ≠ s.index →
    (∃ nnn, i = .ldIAddr nnn) ∨ ∃ x, i = .addIVx x ∨ i = .ldFVx x) ∧
  ∀ (s : State) (x : RegIx) (nnn : Addr),
    (∃ t, exec (.ldIAddr nnn) s = .next t ∧ t.outcome = .ok ∧ t.pc = s.pc + 2 ∧ Frame [.index] s t ∧
      t.index.toNat = nnn.toNat) ∧
    (∃ t, exec (.addIVx x) s = .next t ∧ t.outcome = .ok ∧ t.pc = s.pc + 2 ∧ Frame [.index] s t ∧
      t.index.toNat = (s.index.toNat + (s.getV x).toNat) % 65536) ∧
    (∃ t, exec (.ldFVx x) s = .next t ∧ t.outcome = .ok ∧ t.pc = s.pc + 2 ∧ Frame [.index] s t ∧
      t.index.toNat = 5 * (s.getV x).toNat)

/-- LD B,Vx stores hundreds, tens and ones at I, I+1, I+2 and nothing else (42_memory_index section 3; the digit order is the
spec's decision D21). The premise is the invariant that memory is canonical. -/
def Obligations.BcdDigitsStored : Prop :=
  ∀ (s : State) (x : RegIx), s.mem.wf → s.index.toNat + 2 ≤ 0xFFF →
    ∃ t, exec (.ldBVx x) s = .next t ∧ t.outcome = .ok ∧ t.pc = s.pc + 2 ∧ Frame [.memory] s t ∧
      (memRead t.mem (blockAddr s)).toNat = (s.getV x).toNat / 100 ∧
      (memRead t.mem (blockAddr s + 1)).toNat = (s.getV x).toNat / 10 % 10 ∧
      (memRead t.mem (blockAddr s + 2)).toNat = (s.getV x).toNat % 10 ∧
      ∀ a, a < blockAddr s ∨ blockAddr s + 2 < a → memRead t.mem a = memRead s.mem a

/-- R167: LD [I],Vx stores V0..Vx, inclusive of x, at I, I+1, ..., I+x and nothing else, and I stays; past 0xFFF it raises with no
byte written (the spec's decision D8). The premise on memory is the invariant that it is canonical. -/
def Obligations.RegisterBlockStored : Prop :=
  ∀ (s : State) (x : RegIx), s.mem.wf →
    decode (0xF#4 ++ x ++ 0x55#8) = .ok (.ldMemVx x) ∧
    (s.index.toNat + x.toNat ≤ 0xFFF →
      ∃ t, exec (.ldMemVx x) s = .next t ∧ t.outcome = .ok ∧ t.pc = s.pc + 2 ∧ Frame [.memory] s t ∧
        (∀ i : RegIx, i.toNat ≤ x.toNat → memRead t.mem (blockAddr s + i.toNat) = s.getV i) ∧
        ∀ a, a < blockAddr s ∨ blockAddr s + x.toNat < a → memRead t.mem a = memRead s.mem a) ∧
    (s.index.toNat + x.toNat > 0xFFF →
      ∃ t, exec (.ldMemVx x) s = .next t ∧ t.outcome = .error (.outOfRangeAccess (.mem (max s.index.toNat 0x1000))) ∧
        t.pc = s.pc ∧ Frame [.halted] s t)

/-- R168: LD Vx,[I] loads V0..Vx, inclusive of x, from I, I+1, ..., I+x, and I stays; past 0xFFF it raises with no register
written (the spec's decision D8). -/
def Obligations.RegisterBlockLoaded : Prop :=
  ∀ (s : State) (x : RegIx),
    decode (0xF#4 ++ x ++ 0x65#8) = .ok (.ldVxMem x) ∧
    (s.index.toNat + x.toNat ≤ 0xFFF →
      ∃ t, exec (.ldVxMem x) s = .next t ∧ t.outcome = .ok ∧ t.pc = s.pc + 2 ∧ Frame [.regs] s t ∧
        (∀ i : RegIx, i.toNat ≤ x.toNat → t.getV i = memRead s.mem (blockAddr s + i.toNat)) ∧
        ∀ i : RegIx, x.toNat < i.toNat → t.getV i = s.getV i) ∧
    (s.index.toNat + x.toNat > 0xFFF →
      ∃ t, exec (.ldVxMem x) s = .next t ∧ t.outcome = .error (.outOfRangeAccess (.mem (max s.index.toNat 0x1000))) ∧
        t.pc = s.pc ∧ Frame [.halted] s t)

/-- LD Vx,[I] is the inverse of LD [I],Vx: stored registers are loaded back in any state with the stored memory and the same I
(42_memory_index section 3). -/
def Obligations.BlockLoadInvertsStore : Prop :=
  ∀ (s t u : State) (x : RegIx), s.mem.wf → exec (.ldMemVx x) s = .next t → t.outcome = .ok →
    u.mem = t.mem → u.index = s.index →
    ∃ v, exec (.ldVxMem x) u = .next v ∧ v.outcome = .ok ∧ ∀ i : RegIx, i.toNat ≤ x.toNat → v.getV i = s.getV i

/-- Memory is written by LD B,Vx and LD [I],Vx only, and read beside the fetch by DRW and LD Vx,[I] only, and the keys are read by
SKP and SKNP only: any other instruction does the same whatever memory holds or whatever keys are pressed (20_memory section 1,
10_state section 6). -/
def Obligations.MemoryAndKeysReachedOnlyByTheirInstructions : Prop :=
  (∀ (i : Instr) (s : State), (∀ x, i ≠ .ldBVx x) → (∀ x, i ≠ .ldMemVx x) →
    (∀ t, exec i s = .next t → t.mem = s.mem) ∧
    ((∀ x, i ≠ .ldVxMem x) → (∀ x y n, i ≠ .drwVxVy x y n) →
      ∀ m : Memory, exec i { s with mem := m } = mapNext (fun t => { t with mem := m }) (exec i s))) ∧
  ∀ (i : Instr) (s : State) (k : Vector Bool 16), (∀ x, i ≠ .skpVx x) → (∀ x, i ≠ .sknpVx x) →
    exec i { s with keys := k } = mapNext (fun t => { t with keys := k }) (exec i s)

/-! ### Timers, keys and the random byte as instructions see them -/

/-- R180, R181, R182: LD Vx,DT, LD DT,Vx and LD ST,Vx, with their encodings. LD Vx,DT reads DT as it stands before the tick's timer
pass, and a value written is decayed by the same tick's pass. -/
def Obligations.TimerLoadsAndStores : Prop :=
  ∀ (s : State) (x : RegIx),
    (decode (0xF#4 ++ x ++ 0x07#8) = .ok (.ldVxDt x) ∧ decode (0xF#4 ++ x ++ 0x15#8) = .ok (.ldDtVx x) ∧
      decode (0xF#4 ++ x ++ 0x18#8) = .ok (.ldStVx x)) ∧
    (∃ t, exec (.ldVxDt x) s = .next t ∧ t.outcome = .ok ∧ t.pc = s.pc + 2 ∧ Frame [.regs] s t ∧ t.getV x = s.dt ∧
      (∀ y, y ≠ x → t.getV y = s.getV y) ∧ ∀ e, (endTick e t).getV x = s.dt) ∧
    (∃ t, exec (.ldDtVx x) s = .next t ∧ t.outcome = .ok ∧ t.pc = s.pc + 2 ∧ Frame [.delay] s t ∧ t.dt = s.getV x ∧
      ∀ e, (endTick e t).dt = (timerPass e { s with dt := s.getV x }).dt) ∧
    (∃ t, exec (.ldStVx x) s = .next t ∧ t.outcome = .ok ∧ t.pc = s.pc + 2 ∧ Frame [.sound] s t ∧ t.st = s.getV x ∧
      ∀ e, (endTick e t).st = (timerPass e { s with st := s.getV x }).st)

/-- R28: DT is written by LD DT,Vx and by the decay that ends a tick, and read by LD Vx,DT; ST is written by LD ST,Vx and by the
decay; no instruction reads ST, and none but LD Vx,DT reads DT: any other does the same whatever the timer holds; and no output
port shows ST. -/
def Obligations.TimersTouchedOnlyByTheirInstructions : Prop :=
  (∀ s t : State, step s = .next t → ∃ u, coreStep s = .next u ∧ t.dt = (timerPass (nextElapsed s) u).dt ∧
    t.st = (timerPass (nextElapsed s) u).st ∧ (s.pending ≠ none → u.dt = s.dt ∧ u.st = s.st)) ∧
  (∀ (s : State) (b : Byte), frameOut { s with st := b } = frameOut s ∧ haltedOut { s with st := b } = haltedOut s) ∧
  (∀ (s : State) (x : RegIx), (∃ t, exec (.ldDtVx x) s = .next t ∧ t.dt = s.getV x) ∧
    (∃ t, exec (.ldStVx x) s = .next t ∧ t.st = s.getV x) ∧ ∃ t, exec (.ldVxDt x) s = .next t ∧ t.getV x = s.dt) ∧
  ∀ (i : Instr) (s : State),
    (∀ t, exec i s = .next t → (∀ x, i ≠ .ldDtVx x) → t.dt = s.dt) ∧
    (∀ t, exec i s = .next t → (∀ x, i ≠ .ldStVx x) → t.st = s.st) ∧
    (∀ (t : State) (b : Byte), exec i s = .next t → ∃ u, exec i { s with st := b } = .next u ∧ { u with st := t.st } = t) ∧
    (∀ (t : State) (b : Byte), exec i s = .next t → (∀ x, i ≠ .ldVxDt x) →
      ∃ u, exec i { s with dt := b } = .next u ∧ { u with dt := t.dt } = t)

/-- SKP and SKNP skip on the key numbered by Vx, a number up to 15 (43_timer_key section 2; a number above 15 raises, the spec's
decision D9). -/
def Obligations.KeySkips : Prop :=
  ∀ (s : State) (x : RegIx),
    ((s.getV x).toNat ≤ 15 →
      (∃ t, exec (.skpVx x) s = .next t ∧ t.outcome = .ok ∧ Frame [] s t ∧
        (keyDown s (s.getV x).toNat → t.pc = s.pc + 4) ∧ (¬keyDown s (s.getV x).toNat → t.pc = s.pc + 2)) ∧
      (∃ t, exec (.sknpVx x) s = .next t ∧ t.outcome = .ok ∧ Frame [] s t ∧
        (keyDown s (s.getV x).toNat → t.pc = s.pc + 2) ∧ (¬keyDown s (s.getV x).toNat → t.pc = s.pc + 4))) ∧
    ((s.getV x).toNat > 15 → ∀ i, i = .skpVx x ∨ i = .sknpVx x →
      ∃ t, exec i s = .next t ∧ t.outcome = .error (.outOfRangeAccess (.key (s.getV x))) ∧ t.pc = s.pc ∧ Frame [.halted] s t)

/-- R186: the first execution of LD Vx,K writes only the pending instruction; it reads neither the keys nor Vx. -/
def Obligations.KeyWaitBecomesPending : Prop :=
  ∀ (s : State) (x : RegIx),
    decode (0xF#4 ++ x ++ 0x0A#8) = .ok (.ldVxK x) ∧
    ∃ t, exec (.ldVxK x) s = .next t ∧ t.outcome = .ok ∧ t.pending = some x ∧ t.pc = s.pc ∧ Frame [.pending] s t ∧
      ∀ (k : Vector Bool 16) (b : Byte), exec (.ldVxK x) ({ s with keys := k }.setV x b) = .next ({ t with keys := k }.setV x b)

/-- RND puts the step's draw, masked, in Vx: a bit outside kk is 0, kk = 0 gives 0, kk = 0xFF gives the draw (44_display_random
section 2; the free draw is the spec's decision D30). That the draw is the free value numbered by draws, and that each execution
advances that counter, is the model's choice, log entry 5. -/
def Obligations.RandomByteMasked : Prop :=
  ∀ (s : State) (x : RegIx) (kk : Byte),
    decode (0xC#4 ++ x ++ kk) = .ok (.rndVxByte x kk) ∧
    ∃ t, exec (.rndVxByte x kk) s = .next t ∧ t.outcome = .ok ∧ t.pc = s.pc + 2 ∧ Frame [.regs, .draws] s t ∧
      (∀ j, (t.getV x).getLsbD j = ((Config.rnd s.draws).getLsbD j && kk.getLsbD j)) ∧
      (kk = 0 → t.getV x = 0) ∧ (kk = 0xFF → t.getV x = Config.rnd s.draws) ∧
      (∀ y, y ≠ x → t.getV y = s.getV y) ∧ t.draws = s.draws + 1

/-! ### Display -/

/-- CLS clears every cell and sets dirty when the open parameter CLS_CLEARS is true, else it changes only PC
(44_display_random section 2; the spec's decisions D4, D22; log entry 7). -/
def Obligations.ClsUnderItsParameter : Prop :=
  ∀ s : State, ∃ t, exec .cls s = .next t ∧ t.outcome = .ok ∧ t.pc = s.pc + 2 ∧ Frame [.display, .dirty] s t ∧
    (Config.clsClears = true → t.dirty = true ∧ ∀ r < 32, ∀ c < 64, pixel t.disp r c = false) ∧
    (Config.clsClears = false → t.dirty = s.dirty ∧ t.disp = s.disp)

/-- The blit, which the model runs pixel by pixel, is one XOR of the sprite into the wrapped cells, and VF says exactly whether a set
cell met a set sprite bit (44_display_random sections 1 and 2; the bit order is the spec's decision D25, dirty set at n = 0
too its decision D28). -/
def Obligations.DrawXorsSpriteAndReportsErasure : Prop :=
  ∀ (s : State) (x y : RegIx) (n : Nibble), n = 0 ∨ s.index.toNat + n.toNat ≤ 0x1000 →
    let sprite := readBytes s.mem (blockAddr s) n.toNat
    let covers := SpriteCovers (s.getV x) (s.getV y) sprite
    ∃ t, exec (.drwVxVy x y n) s = .next t ∧ t.outcome = .ok ∧ t.pc = s.pc + 2 ∧ t.dirty = true ∧
      Frame [.regs, .display, .dirty] s t ∧
      (∀ r < 32, ∀ c < 64,
        (covers r c → pixel t.disp r c = !pixel s.disp r c) ∧ (¬covers r c → pixel t.disp r c = pixel s.disp r c)) ∧
      ((∃ r < 32, ∃ c < 64, pixel s.disp r c = true ∧ covers r c) → t.getV 0xF = 1) ∧
      ((¬∃ r < 32, ∃ c < 64, pixel s.disp r c = true ∧ covers r c) → t.getV 0xF = 0) ∧
      ∀ z, z ≠ 0xF → t.getV z = s.getV z

/-- Collision is erasure: VF is 1 after a DRW exactly when some cell went from set to unset (44_display_random section 1). -/
def Obligations.CollisionMeansErasure : Prop :=
  ∀ (s t : State) (x y : RegIx) (n : Nibble), exec (.drwVxVy x y n) s = .next t → t.outcome = .ok →
    (t.getV 0xF = 1 ∨ t.getV 0xF = 0) ∧
    (t.getV 0xF = 1 ↔ ∃ r < 32, ∃ c < 64, pixel s.disp r c = true ∧ pixel t.disp r c = false)

/-- The same sprite drawn twice at the same place restores the grid (44_display_random section 1; the property W5). Registers x
and y other than VF keep the place. -/
def Obligations.DrawTwiceRestoresGrid : Prop :=
  ∀ (s t : State) (x y : RegIx) (n : Nibble), x ≠ 0xF → y ≠ 0xF → exec (.drwVxVy x y n) s = .next t → t.outcome = .ok →
    ∃ u, exec (.drwVxVy x y n) t = .next u ∧ u.outcome = .ok ∧ u.disp = s.disp ∧
      (s.disp = Display.blank → (u.getV 0xF = 1 ↔ t.disp ≠ Display.blank))

/-- The display is written by DRW and CLS only, and a tick never clears dirty (10_state sections 7 and 8; the spec's decisions D4,
D28). -/
def Obligations.DisplayWrittenOnlyByDrawAndCls : Prop :=
  (∀ (i : Instr) (s t : State), (∀ x y n, i ≠ .drwVxVy x y n) → i ≠ .cls → exec i s = .next t →
    t.disp = s.disp ∧ t.dirty = s.dirty) ∧
  ∀ s t : State, step s = .next t → s.dirty = true → t.dirty = true

/-! ### Host ports -/

/-- R246: the key input port sets or clears one key state by index and no other; SKP, SKNP and the completion of a key wait read it;
no tick and no other host action writes a key state. -/
def Obligations.KeyInputPort : Prop :=
  (∀ (s : State) (k : Fin 16) (b : Bool), ∃ t, hostAct (.key k b) s = some t ∧ t.keys.toList[k.val]? = some b ∧
    (∀ j, j ≠ k.val → t.keys.toList[j]? = s.keys.toList[j]?) ∧ t.pc = s.pc ∧ t.outcome = s.outcome ∧ Frame [.keys] s t ∧
    ∀ x, (b = true → s.pending = some x → ∃ u, coreStep t = .next u ∧ u.pending = none) ∧
      ((s.getV x).toNat = k.val →
        (∃ u, exec (.skpVx x) t = .next u ∧ u.pc = if b then s.pc + 4 else s.pc + 2) ∧
        ∃ u, exec (.sknpVx x) t = .next u ∧ u.pc = if b then s.pc + 2 else s.pc + 4)) ∧
  (∀ (a : HostAction) (s t : State), (∀ k b, a ≠ .key k b) → hostAct a s = some t → t.keys = s.keys) ∧
  ∀ s t : State, step s = .next t → t.keys = s.keys

/-- R245: the frame output port gives the grid and the dirty flag and lets the host clear the flag; no host action writes the
grid or sets the flag; a draw instruction that executes sets it (n = 0 included, the spec's decision D28). -/
def Obligations.FrameOutputPort : Prop :=
  (∀ s : State, frameOut s = (s.disp, s.dirty)) ∧
  (∀ s : State, ∃ t, hostAct .clearDirty s = some t ∧ t.dirty = false ∧ t.pc = s.pc ∧ t.outcome = s.outcome ∧
    Frame [.dirty] s t) ∧
  (∀ (a : HostAction) (s t : State), hostAct a s = some t → t.disp = s.disp ∧ (t.dirty = true → s.dirty = true)) ∧
  ∀ (s t : State) (x y : RegIx) (n : Nibble), exec (.drwVxVy x y n) s = .next t → t.outcome = .ok → (frameOut t).2 = true

/-- Program load: byte i of an image of at most 3584 bytes goes to 0x200 + i, once and before the first tick, and nothing else
changes; a longer image, a second load or a later load does not reach the CORE; no other host action writes memory, and nothing
undoes that a load has been made (70_reset_and_hazards section 2; the spec's decision D32; log entry 8). That ticks is 0 before the
first tick and counts ticks, and that loaded remembers the load, are the model's choices, log entries 4 and 17. The premise on memory
is the invariant that it is canonical. -/
def Obligations.ProgramLoadPort : Prop :=
  (∀ (s : State) (image : List Byte), s.mem.wf →
    (s.loaded = false → s.ticks = 0 → image.length ≤ 3584 →
      ∃ t, hostAct (.load image) s = some t ∧ t.pc = s.pc ∧ t.outcome = s.outcome ∧ Frame [.memory, .loaded] s t ∧
        (∀ i (h : i < image.length), memRead t.mem (0x200 + i) = image[i]) ∧
        (∀ a, a < 0x200 ∨ 0x200 + image.length ≤ a → memRead t.mem a = memRead s.mem a) ∧
        t.loaded = true ∧ ∀ second, hostAct (.load second) t = none) ∧
    (image.length > 3584 ∨ s.loaded = true ∨ s.ticks ≠ 0 → hostAct (.load image) s = none)) ∧
  (∀ (a : HostAction) (s t : State), hostAct a s = some t →
    ((∀ image, a ≠ .load image) → t.mem = s.mem) ∧ (s.loaded = true → t.loaded = true) ∧ t.ticks = s.ticks) ∧
  ∀ s t : State, step s = .next t → t.loaded = s.loaded ∧ t.ticks = s.ticks + 1

/-! ### Reset and invariants -/

/-- What reset leaves (10_state section 11, 70_reset_and_hazards section 1; I, memory, halted, dirty, Acc and the keys are the spec's
decisions, the 80 font bytes its decision D15; DT and ST hold the open parameters, log entry 6; the outcome and the four fields of
the model's own, elapsedIn, ticks, draws and loaded, are the model's choices, log entries 2 to 5 and 17). -/
def Obligations.ResetValues : Prop :=
  (∀ x, State.reset.getV x = 0) ∧ State.reset.index = 0 ∧ State.reset.pc = 0x200 ∧ State.reset.stack = [] ∧
  State.reset.dt = Config.dtInit ∧ State.reset.st = Config.stInit ∧ (∀ k, ¬keyDown State.reset k) ∧
  (∀ r < 32, ∀ c < 64, pixel State.reset.disp r c = false) ∧ State.reset.pending = none ∧
  State.reset.halted = false ∧ State.reset.dirty = false ∧ State.reset.acc = 0 ∧
  (∀ a, 80 ≤ a → memRead State.reset.mem a = 0) ∧
  readBytes State.reset.mem 0x00 20 =
    [0xF0, 0x90, 0x90, 0x90, 0xF0, 0x20, 0x60, 0x20, 0x20, 0x70, 0xF0, 0x10, 0xF0, 0x80, 0xF0, 0xF0, 0x10, 0xF0, 0x10, 0xF0] ∧
  readBytes State.reset.mem 0x14 20 =
    [0x90, 0x90, 0xF0, 0x10, 0x10, 0xF0, 0x80, 0xF0, 0x10, 0xF0, 0xF0, 0x80, 0xF0, 0x90, 0xF0, 0xF0, 0x10, 0x20, 0x40, 0x40] ∧
  readBytes State.reset.mem 0x28 20 =
    [0xF0, 0x90, 0xF0, 0x90, 0xF0, 0xF0, 0x90, 0xF0, 0x10, 0xF0, 0xF0, 0x90, 0xF0, 0x90, 0x90, 0xE0, 0x90, 0xE0, 0x90, 0xE0] ∧
  readBytes State.reset.mem 0x3C 20 =
    [0xF0, 0x80, 0x80, 0x80, 0xF0, 0xE0, 0x90, 0x90, 0x90, 0xE0, 0xF0, 0x80, 0xF0, 0x80, 0xF0, 0xF0, 0x80, 0xF0, 0x80, 0x80] ∧
  State.reset.outcome = .ok ∧ State.reset.elapsedIn = [] ∧ State.reset.ticks = 0 ∧ State.reset.draws = 0 ∧
  State.reset.loaded = false

/-- The invariant holds at reset. -/
def Obligations.InvariantAtReset : Prop := MachineInv State.reset

/-- Every tick keeps the invariant, from every state that meets it: canonical memory, at most 16 return addresses, PC at most
0x10FE, a fetched key wait, Acc below one interval, halted after an error (10_state sections 2 and 5, 60_exceptions section 6). -/
def Obligations.StepKeepsInvariant : Prop := ∀ s t : State, MachineInv s → step s = .next t → MachineInv t

/-- Every host action keeps the invariant. -/
def Obligations.HostActionKeepsInvariant : Prop := ∀ (a : HostAction) (s t : State), MachineInv s → hostAct a s = some t → MachineInv t

/-- Every state that ticks and host actions reach from reset meets the invariant; and from any state a word is fetched only from
memory that exists, whether or not it decodes. -/
def Obligations.ReachableStatesMeetInvariant : Prop :=
  (∀ s : State, Reachable s → MachineInv s) ∧ ∀ (s : State) (w : Word), fetchWord s = .ok w → s.pc.toNat + 1 < 4096

/-- Until the first tick the machine is Idle at 0x200; memory is as reset leaves it while nothing is loaded; and the image that the
host then loads, of at most 3584 bytes, is read byte by byte from 0x200 and every other address reads as reset leaves it, whatever
the host does after the load until a tick (70_reset_and_hazards sections 1 and 2; the spec's decision D32). That ticks is 0 before the
first tick, and that loaded remembers the load, are the model's choices, log entries 4 and 17. -/
def Obligations.MemoryBeforeFirstTick : Prop :=
  ∀ s : State, Reachable s →
    (s.ticks = 0 → s.pc = 0x200 ∧ s.pending = none ∧
      (s.loaded = false → ∀ a, memRead s.mem a = memRead State.reset.mem a)) ∧
    ∀ (image : List Byte) (t : State), hostAct (.load image) s = some t →
      image.length ≤ 3584 ∧
      ∀ (later : List HostAction) (u : State), later.foldlM (fun q a => hostAct a q) t = some u →
        u.ticks = 0 ∧ (∀ i (h : i < image.length), memRead u.mem (0x200 + i) = image[i]) ∧
        ∀ a, a < 0x200 ∨ 0x200 + image.length ≤ a → memRead u.mem a = memRead State.reset.mem a
end

