-- ==== Sys2Proof/Laws/Decode.lean ====
section
/-! SUPPORT. Laws of the decoder's fields and of the formats' words: packing and unpacking undo each other (30_encoding R72, R73). -/

namespace Sys2Proof

theorem fields_opNnn (op : Nibble) (nnn : Addr) : opField (opNnn op nnn) = op ∧ nnnField (opNnn op nnn) = nnn := by
  constructor <;> · ext i hi; simp [opField, nnnField, opNnn]; grind

theorem fields_opXKk (op : Nibble) (x : RegIx) (kk : Byte) :
    opField (opXKk op x kk) = op ∧ xField (opXKk op x kk) = x ∧ kkField (opXKk op x kk) = kk := by
  refine ⟨?_, ?_, ?_⟩ <;>
    · ext i hi
      simp [opField, xField, kkField, opXKk]
      try (first | omega | grind)

theorem fields_fourNibbles (op x y n : BitVec 4) :
    opField (fourNibbles op x y n) = op ∧ xField (fourNibbles op x y n) = x ∧ yField (fourNibbles op x y n) = y ∧
      nField (fourNibbles op x y n) = n := by
  refine ⟨?_, ?_, ?_, ?_⟩ <;>
    · ext i hi
      simp [opField, xField, yField, nField, fourNibbles]
      try (first | omega | grind)

theorem opNnn_fields (w : Word) : opNnn (opField w) (nnnField w) = w := by
  ext i hi; simp [opField, nnnField, opNnn]; grind

theorem opXKk_fields (w : Word) : opXKk (opField w) (xField w) (kkField w) = w := by
  ext i hi; simp [opField, xField, kkField, opXKk]; grind

theorem fourNibbles_fields (w : Word) : fourNibbles (opField w) (xField w) (yField w) (nField w) = w := by
  ext i hi; simp [opField, xField, yField, nField, fourNibbles]; grind

theorem toNat_fields (w : Word) :
    (opField w).toNat = w.toNat / 4096 ∧ (nField w).toNat = w.toNat % 16 ∧ (kkField w).toNat = w.toNat % 256 := by
  have := w.isLt
  refine ⟨?_, ?_, ?_⟩ <;> simp [opField, nField, kkField, BitVec.extractLsb'_toNat, Nat.shiftRight_eq_div_pow]
  omega

/-- The word of two bytes, big-endian, as a number (20_memory R53). -/
theorem toNat_word (hi lo : Byte) : (hi ++ lo : Word).toNat = 256 * hi.toNat + lo.toNat := by
  have h : (hi ++ lo : BitVec (8 + 8)).toNat = hi.toNat <<< 8 ||| lo.toNat := BitVec.toNat_append ..
  rw [show (hi ++ lo : Word).toNat = (hi ++ lo : BitVec (8 + 8)).toNat from rfl, h,
    ← Nat.shiftLeft_add_eq_or_of_lt lo.isLt, Nat.shiftLeft_eq]
  omega

/-- A decoder answer is an instruction, or the word is unsupported because it matches no row. -/
theorem decode_cases (w : Word) :
    (∃ i, decodeRow w = some i ∧ decode w = .ok i) ∨ (decodeRow w = none ∧ decode w = .error (.unsupportedOpcode w)) := by
  unfold decode
  cases decodeRow w with
  | some i => exact .inl ⟨i, rfl, rfl⟩
  | none => exact .inr ⟨rfl, rfl⟩

end Sys2Proof
end

