-- ==== Sys2Proof/Laws/Memory.lean ====
section
/-! SUPPORT. Memory: reads after writes, the canonical form, and the range check (20_memory). -/

namespace Sys2Proof.Machine

theorem memRead_cons (a' : Nat) (b : Byte) (m : Memory) (a : Nat) :
    memRead ((a', b) :: m) a = if a = a' then b else memRead m a := rfl

/-- An address that is not listed reads as after reset. -/
theorem memRead_unlisted {m : Memory} {a : Nat} (h : ∀ c ∈ m, c.1 ≠ a) : memRead m a = resetByte a := by
  induction m with
  | nil => rfl
  | cons c m ih =>
    rw [memRead_cons, if_neg (Ne.symm (h c (by simp)))]
    exact ih fun d hd => h d (by simp [hd])

theorem memRead_memPut_ne {a k : Nat} (b : Byte) (m : Memory) (h : k ≠ a) : memRead (memPut a b m) k = memRead m k := by
  unfold memPut; split
  · rfl
  · rw [memRead_cons, if_neg h]

theorem memRead_memPut_same {a : Nat} (b : Byte) {m : Memory} (h : ∀ c ∈ m, a < c.1) : memRead (memPut a b m) a = b := by
  unfold memPut; split
  · rename_i hb
    rw [hb]; exact memRead_unlisted fun c hc => Nat.ne_of_gt (h c hc)
  · rw [memRead_cons, if_pos rfl]

/-- A write leaves every other address alone, in any memory (20_memory R57). -/
theorem memRead_memWrite_ne (m : Memory) {a k : Nat} (b : Byte) (h : k ≠ a) : memRead (memWrite m a b) k = memRead m k := by
  induction m with
  | nil => exact memRead_memPut_ne b [] h
  | cons c m ih =>
    simp only [memWrite]
    split
    · exact memRead_memPut_ne b _ h
    · split
      · rename_i _ ha
        rw [memRead_memPut_ne b m h, memRead_cons, if_neg (ha ▸ h)]
      · rw [memRead_cons, memRead_cons, ih]

/-- A read after a write to the same address gives the byte written, in a canonical memory. -/
theorem memRead_memWrite_same {m : Memory} (hm : m.Pairwise fun c d => c.1 < d.1) (a : Nat) (b : Byte) :
    memRead (memWrite m a b) a = b := by
  induction m with
  | nil => exact memRead_memPut_same b (by simp)
  | cons c m ih =>
    rw [List.pairwise_cons] at hm
    simp only [memWrite]
    split
    · rename_i ha
      refine memRead_memPut_same b fun d hd => ?_
      rcases List.mem_cons.mp hd with rfl | hd
      · exact ha
      · exact Nat.lt_trans ha (hm.1 d hd)
    · split
      · rename_i _ ha
        exact memRead_memPut_same b fun d hd => ha ▸ hm.1 d hd
      · rename_i h1 h2
        rw [memRead_cons, if_neg h2]; exact ih hm.2

theorem memPut_wf {a : Nat} {b : Byte} {m : Memory} (hm : Memory.wf m) (ha : a < memSize) (h : ∀ c ∈ m, a < c.1) :
    Memory.wf (memPut a b m) := by
  unfold memPut; split
  · exact hm
  · rename_i hb
    exact ⟨List.pairwise_cons.mpr ⟨h, hm.1⟩, by simpa using ⟨⟨ha, hb⟩, fun x y hxy => hm.2 (x, y) hxy⟩⟩

theorem mem_memWrite {m : Memory} {a : Nat} {b : Byte} {c : Host.Cell} (h : c ∈ memWrite m a b) : c.1 = a ∨ c ∈ m := by
  induction m with
  | nil => simp only [memWrite, memPut] at h; split at h <;> simp_all
  | cons d m ih =>
    simp only [memWrite, memPut] at h
    split at h
    · split at h
      · exact .inr h
      · rcases List.mem_cons.mp h with rfl | h
        · exact .inl rfl
        · exact .inr h
    · split at h
      · split at h
        · exact .inr (by simp [h])
        · rcases List.mem_cons.mp h with rfl | h
          · exact .inl rfl
          · exact .inr (by simp [h])
      · rcases List.mem_cons.mp h with rfl | h
        · exact .inr (by simp)
        · rcases ih h with h | h
          · exact .inl h
          · exact .inr (by simp [h])

/-- A write keeps the canonical form. -/
theorem memWrite_wf {m : Memory} (hm : Memory.wf m) {a : Nat} (ha : a < memSize) (b : Byte) : Memory.wf (memWrite m a b) := by
  induction m with
  | nil => exact memPut_wf hm ha (by simp)
  | cons c m ih =>
    have hp := List.pairwise_cons.mp hm.1
    have hm' : Memory.wf m := ⟨hp.2, fun d hd => hm.2 d (by simp [hd])⟩
    simp only [memWrite]
    split
    · rename_i hac
      refine memPut_wf hm ha fun d hd => ?_
      rcases List.mem_cons.mp hd with rfl | hd
      · exact hac
      · exact Nat.lt_trans hac (hp.1 d hd)
    · split
      · rename_i _ hac
        exact memPut_wf hm' ha fun d hd => hac ▸ hp.1 d hd
      · rename_i h1 h2
        have hw := ih hm'
        refine ⟨List.pairwise_cons.mpr ⟨fun d hd => ?_, hw.1⟩, fun d hd => ?_⟩
        · rcases mem_memWrite hd with h | h
          · show c.1 < d.1
            omega
          · exact hp.1 d h
        · rcases List.mem_cons.mp hd with rfl | hd
          · exact hm.2 _ (by simp)
          · exact hw.2 d hd

/-- Writing a block keeps the canonical form. -/
theorem writeBytes_wf {m : Memory} (hm : Memory.wf m) {addr : Nat} {bs : List Byte} (h : addr + bs.length ≤ memSize) :
    Memory.wf (writeBytes m addr bs) := by
  induction bs generalizing m addr with
  | nil => exact hm
  | cons b bs ih =>
    simp only [List.length_cons] at h
    exact ih (memWrite_wf hm (by omega) b) (by omega)

/-- Writing a block leaves every address outside it alone, in any memory. -/
theorem memRead_writeBytes_out (m : Memory) {addr k : Nat} (bs : List Byte) (h : k < addr ∨ addr + bs.length ≤ k) :
    memRead (writeBytes m addr bs) k = memRead m k := by
  induction bs generalizing m addr with
  | nil => rfl
  | cons b bs ih =>
    simp only [List.length_cons] at h
    simp only [writeBytes]
    rw [ih _ (by omega), memRead_memWrite_ne m b (by omega)]

/-- A read inside a written block gives the byte written, in a canonical memory. -/
theorem memRead_writeBytes_in {m : Memory} (hm : Memory.wf m) {addr : Nat} {bs : List Byte} (h : addr + bs.length ≤ memSize)
    {k : Nat} (hk : k < bs.length) : memRead (writeBytes m addr bs) (addr + k) = bs[k] := by
  induction bs generalizing m addr k with
  | nil => simp at hk
  | cons b bs ih =>
    simp only [List.length_cons] at h hk
    simp only [writeBytes]
    cases k with
    | zero =>
      rw [memRead_writeBytes_out _ _ (by omega)]
      simpa using memRead_memWrite_same hm.1 addr b
    | succ k =>
      have := ih (memWrite_wf hm (a := addr) (by omega) b) (addr := addr + 1) (by omega) (k := k) (by omega)
      simpa [Nat.add_assoc, Nat.add_comm 1 k] using this

@[simp] theorem length_readBytes (m : Memory) (addr n : Nat) : (readBytes m addr n).length = n := by simp [readBytes]

theorem getElem_readBytes (m : Memory) (addr n k : Nat) (h : k < (readBytes m addr n).length) :
    (readBytes m addr n)[k] = memRead m (addr + k) := by simp [readBytes]

/-- The range check passes exactly when no byte lies above 0xFFF (20_memory R56). -/
theorem firstAbsent_none (addr n : Nat) : firstAbsent addr n = none ↔ n = 0 ∨ addr + n ≤ 4096 := by
  unfold firstAbsent memSize
  by_cases h : 0 < n ∧ 4096 < addr + n
  · simp [h]; omega
  · simp [h]; omega

/-- Where the range check fails it names the lowest address above 0xFFF (20_memory R56). -/
theorem firstAbsent_some (addr n a : Nat) :
    firstAbsent addr n = some a ↔ 0 < n ∧ 4096 < addr + n ∧ a = max addr 4096 := by
  unfold firstAbsent memSize
  by_cases h : 0 < n ∧ 4096 < addr + n
  · simp [h]; omega
  · simp [h]; omega

/-- A load answers the bytes, or the error that names the lowest absent address. -/
theorem loadBytes_cases (m : Memory) (addr n : Nat) :
    ((n = 0 ∨ addr + n ≤ 4096) ∧ loadBytes m addr n = .ok (readBytes m addr n)) ∨
    (0 < n ∧ 4096 < addr + n ∧ loadBytes m addr n = .error (.outOfRangeAccess (.mem (max addr 4096)))) := by
  unfold loadBytes
  cases h : firstAbsent addr n with
  | none => exact .inl ⟨(firstAbsent_none addr n).mp h, rfl⟩
  | some a =>
    obtain ⟨h1, h2, rfl⟩ := (firstAbsent_some addr n a).mp h
    exact .inr ⟨h1, h2, rfl⟩

/-- A store answers the memory with the bytes written, or the error that names the lowest absent address. -/
theorem storeBytes_cases (m : Memory) (addr : Nat) (bs : List Byte) :
    ((bs.length = 0 ∨ addr + bs.length ≤ 4096) ∧ storeBytes m addr bs = .ok (writeBytes m addr bs)) ∨
    (0 < bs.length ∧ 4096 < addr + bs.length ∧
      storeBytes m addr bs = .error (.outOfRangeAccess (.mem (max addr 4096)))) := by
  unfold storeBytes
  cases h : firstAbsent addr bs.length with
  | none => exact .inl ⟨(firstAbsent_none _ _).mp h, rfl⟩
  | some a =>
    obtain ⟨h1, h2, rfl⟩ := (firstAbsent_some _ _ a).mp h
    exact .inr ⟨h1, h2, rfl⟩

/-- Reset memory is canonical. -/
theorem reset_mem_wf : Memory.wf State.reset.mem := by simp [State.reset, Memory.wf]

end Sys2Proof.Machine
end

