-- ==== Sys2Proof/Laws/State.lean ====
section
/-! SUPPORT. What each update of the state leaves in each field, true by unfolding: one lemma per field per update. -/

namespace Sys2Proof.Machine

variable (s : State)

/-! ### State.setV -/

@[simp] theorem State.setV_v (x : RegIx) (b : Byte) : (s.setV x b).v = s.v.set x.toNat b := rfl
@[simp] theorem State.setV_index (x : RegIx) (b : Byte) : (s.setV x b).index = s.index := rfl
@[simp] theorem State.setV_pc (x : RegIx) (b : Byte) : (s.setV x b).pc = s.pc := rfl
@[simp] theorem State.setV_dt (x : RegIx) (b : Byte) : (s.setV x b).dt = s.dt := rfl
@[simp] theorem State.setV_st (x : RegIx) (b : Byte) : (s.setV x b).st = s.st := rfl
@[simp] theorem State.setV_stack (x : RegIx) (b : Byte) : (s.setV x b).stack = s.stack := rfl
@[simp] theorem State.setV_keys (x : RegIx) (b : Byte) : (s.setV x b).keys = s.keys := rfl
@[simp] theorem State.setV_disp (x : RegIx) (b : Byte) : (s.setV x b).disp = s.disp := rfl
@[simp] theorem State.setV_mem (x : RegIx) (b : Byte) : (s.setV x b).mem = s.mem := rfl
@[simp] theorem State.setV_pending (x : RegIx) (b : Byte) : (s.setV x b).pending = s.pending := rfl
@[simp] theorem State.setV_halted (x : RegIx) (b : Byte) : (s.setV x b).halted = s.halted := rfl
@[simp] theorem State.setV_dirty (x : RegIx) (b : Byte) : (s.setV x b).dirty = s.dirty := rfl
@[simp] theorem State.setV_acc (x : RegIx) (b : Byte) : (s.setV x b).acc = s.acc := rfl
@[simp] theorem State.setV_outcome (x : RegIx) (b : Byte) : (s.setV x b).outcome = s.outcome := rfl
@[simp] theorem State.setV_elapsedIn (x : RegIx) (b : Byte) : (s.setV x b).elapsedIn = s.elapsedIn := rfl
@[simp] theorem State.setV_ticks (x : RegIx) (b : Byte) : (s.setV x b).ticks = s.ticks := rfl
@[simp] theorem State.setV_draws (x : RegIx) (b : Byte) : (s.setV x b).draws = s.draws := rfl
@[simp] theorem State.setV_loaded (x : RegIx) (b : Byte) : (s.setV x b).loaded = s.loaded := rfl

/-! ### State.setIndex -/

@[simp] theorem State.setIndex_v (w : Word) : (s.setIndex w).v = s.v := rfl
@[simp] theorem State.setIndex_index (w : Word) : (s.setIndex w).index = w := rfl
@[simp] theorem State.setIndex_pc (w : Word) : (s.setIndex w).pc = s.pc := rfl
@[simp] theorem State.setIndex_dt (w : Word) : (s.setIndex w).dt = s.dt := rfl
@[simp] theorem State.setIndex_st (w : Word) : (s.setIndex w).st = s.st := rfl
@[simp] theorem State.setIndex_stack (w : Word) : (s.setIndex w).stack = s.stack := rfl
@[simp] theorem State.setIndex_keys (w : Word) : (s.setIndex w).keys = s.keys := rfl
@[simp] theorem State.setIndex_disp (w : Word) : (s.setIndex w).disp = s.disp := rfl
@[simp] theorem State.setIndex_mem (w : Word) : (s.setIndex w).mem = s.mem := rfl
@[simp] theorem State.setIndex_pending (w : Word) : (s.setIndex w).pending = s.pending := rfl
@[simp] theorem State.setIndex_halted (w : Word) : (s.setIndex w).halted = s.halted := rfl
@[simp] theorem State.setIndex_dirty (w : Word) : (s.setIndex w).dirty = s.dirty := rfl
@[simp] theorem State.setIndex_acc (w : Word) : (s.setIndex w).acc = s.acc := rfl
@[simp] theorem State.setIndex_outcome (w : Word) : (s.setIndex w).outcome = s.outcome := rfl
@[simp] theorem State.setIndex_elapsedIn (w : Word) : (s.setIndex w).elapsedIn = s.elapsedIn := rfl
@[simp] theorem State.setIndex_ticks (w : Word) : (s.setIndex w).ticks = s.ticks := rfl
@[simp] theorem State.setIndex_draws (w : Word) : (s.setIndex w).draws = s.draws := rfl
@[simp] theorem State.setIndex_loaded (w : Word) : (s.setIndex w).loaded = s.loaded := rfl
@[simp] theorem State.setIndex_getV (w : Word) (y : RegIx) : (s.setIndex w).getV y = s.getV y := rfl

/-! ### State.setDt -/

@[simp] theorem State.setDt_v (b : Byte) : (s.setDt b).v = s.v := rfl
@[simp] theorem State.setDt_index (b : Byte) : (s.setDt b).index = s.index := rfl
@[simp] theorem State.setDt_pc (b : Byte) : (s.setDt b).pc = s.pc := rfl
@[simp] theorem State.setDt_dt (b : Byte) : (s.setDt b).dt = b := rfl
@[simp] theorem State.setDt_st (b : Byte) : (s.setDt b).st = s.st := rfl
@[simp] theorem State.setDt_stack (b : Byte) : (s.setDt b).stack = s.stack := rfl
@[simp] theorem State.setDt_keys (b : Byte) : (s.setDt b).keys = s.keys := rfl
@[simp] theorem State.setDt_disp (b : Byte) : (s.setDt b).disp = s.disp := rfl
@[simp] theorem State.setDt_mem (b : Byte) : (s.setDt b).mem = s.mem := rfl
@[simp] theorem State.setDt_pending (b : Byte) : (s.setDt b).pending = s.pending := rfl
@[simp] theorem State.setDt_halted (b : Byte) : (s.setDt b).halted = s.halted := rfl
@[simp] theorem State.setDt_dirty (b : Byte) : (s.setDt b).dirty = s.dirty := rfl
@[simp] theorem State.setDt_acc (b : Byte) : (s.setDt b).acc = s.acc := rfl
@[simp] theorem State.setDt_outcome (b : Byte) : (s.setDt b).outcome = s.outcome := rfl
@[simp] theorem State.setDt_elapsedIn (b : Byte) : (s.setDt b).elapsedIn = s.elapsedIn := rfl
@[simp] theorem State.setDt_ticks (b : Byte) : (s.setDt b).ticks = s.ticks := rfl
@[simp] theorem State.setDt_draws (b : Byte) : (s.setDt b).draws = s.draws := rfl
@[simp] theorem State.setDt_loaded (b : Byte) : (s.setDt b).loaded = s.loaded := rfl
@[simp] theorem State.setDt_getV (b : Byte) (y : RegIx) : (s.setDt b).getV y = s.getV y := rfl

/-! ### State.setSt -/

@[simp] theorem State.setSt_v (b : Byte) : (s.setSt b).v = s.v := rfl
@[simp] theorem State.setSt_index (b : Byte) : (s.setSt b).index = s.index := rfl
@[simp] theorem State.setSt_pc (b : Byte) : (s.setSt b).pc = s.pc := rfl
@[simp] theorem State.setSt_dt (b : Byte) : (s.setSt b).dt = s.dt := rfl
@[simp] theorem State.setSt_st (b : Byte) : (s.setSt b).st = b := rfl
@[simp] theorem State.setSt_stack (b : Byte) : (s.setSt b).stack = s.stack := rfl
@[simp] theorem State.setSt_keys (b : Byte) : (s.setSt b).keys = s.keys := rfl
@[simp] theorem State.setSt_disp (b : Byte) : (s.setSt b).disp = s.disp := rfl
@[simp] theorem State.setSt_mem (b : Byte) : (s.setSt b).mem = s.mem := rfl
@[simp] theorem State.setSt_pending (b : Byte) : (s.setSt b).pending = s.pending := rfl
@[simp] theorem State.setSt_halted (b : Byte) : (s.setSt b).halted = s.halted := rfl
@[simp] theorem State.setSt_dirty (b : Byte) : (s.setSt b).dirty = s.dirty := rfl
@[simp] theorem State.setSt_acc (b : Byte) : (s.setSt b).acc = s.acc := rfl
@[simp] theorem State.setSt_outcome (b : Byte) : (s.setSt b).outcome = s.outcome := rfl
@[simp] theorem State.setSt_elapsedIn (b : Byte) : (s.setSt b).elapsedIn = s.elapsedIn := rfl
@[simp] theorem State.setSt_ticks (b : Byte) : (s.setSt b).ticks = s.ticks := rfl
@[simp] theorem State.setSt_draws (b : Byte) : (s.setSt b).draws = s.draws := rfl
@[simp] theorem State.setSt_loaded (b : Byte) : (s.setSt b).loaded = s.loaded := rfl
@[simp] theorem State.setSt_getV (b : Byte) (y : RegIx) : (s.setSt b).getV y = s.getV y := rfl

/-! ### State.setRegs -/

@[simp] theorem State.setRegs_v (r : Vector Byte 16) : (s.setRegs r).v = r := rfl
@[simp] theorem State.setRegs_index (r : Vector Byte 16) : (s.setRegs r).index = s.index := rfl
@[simp] theorem State.setRegs_pc (r : Vector Byte 16) : (s.setRegs r).pc = s.pc := rfl
@[simp] theorem State.setRegs_dt (r : Vector Byte 16) : (s.setRegs r).dt = s.dt := rfl
@[simp] theorem State.setRegs_st (r : Vector Byte 16) : (s.setRegs r).st = s.st := rfl
@[simp] theorem State.setRegs_stack (r : Vector Byte 16) : (s.setRegs r).stack = s.stack := rfl
@[simp] theorem State.setRegs_keys (r : Vector Byte 16) : (s.setRegs r).keys = s.keys := rfl
@[simp] theorem State.setRegs_disp (r : Vector Byte 16) : (s.setRegs r).disp = s.disp := rfl
@[simp] theorem State.setRegs_mem (r : Vector Byte 16) : (s.setRegs r).mem = s.mem := rfl
@[simp] theorem State.setRegs_pending (r : Vector Byte 16) : (s.setRegs r).pending = s.pending := rfl
@[simp] theorem State.setRegs_halted (r : Vector Byte 16) : (s.setRegs r).halted = s.halted := rfl
@[simp] theorem State.setRegs_dirty (r : Vector Byte 16) : (s.setRegs r).dirty = s.dirty := rfl
@[simp] theorem State.setRegs_acc (r : Vector Byte 16) : (s.setRegs r).acc = s.acc := rfl
@[simp] theorem State.setRegs_outcome (r : Vector Byte 16) : (s.setRegs r).outcome = s.outcome := rfl
@[simp] theorem State.setRegs_elapsedIn (r : Vector Byte 16) : (s.setRegs r).elapsedIn = s.elapsedIn := rfl
@[simp] theorem State.setRegs_ticks (r : Vector Byte 16) : (s.setRegs r).ticks = s.ticks := rfl
@[simp] theorem State.setRegs_draws (r : Vector Byte 16) : (s.setRegs r).draws = s.draws := rfl
@[simp] theorem State.setRegs_loaded (r : Vector Byte 16) : (s.setRegs r).loaded = s.loaded := rfl

/-! ### State.setMem -/

@[simp] theorem State.setMem_v (m : Memory) : (s.setMem m).v = s.v := rfl
@[simp] theorem State.setMem_index (m : Memory) : (s.setMem m).index = s.index := rfl
@[simp] theorem State.setMem_pc (m : Memory) : (s.setMem m).pc = s.pc := rfl
@[simp] theorem State.setMem_dt (m : Memory) : (s.setMem m).dt = s.dt := rfl
@[simp] theorem State.setMem_st (m : Memory) : (s.setMem m).st = s.st := rfl
@[simp] theorem State.setMem_stack (m : Memory) : (s.setMem m).stack = s.stack := rfl
@[simp] theorem State.setMem_keys (m : Memory) : (s.setMem m).keys = s.keys := rfl
@[simp] theorem State.setMem_disp (m : Memory) : (s.setMem m).disp = s.disp := rfl
@[simp] theorem State.setMem_mem (m : Memory) : (s.setMem m).mem = m := rfl
@[simp] theorem State.setMem_pending (m : Memory) : (s.setMem m).pending = s.pending := rfl
@[simp] theorem State.setMem_halted (m : Memory) : (s.setMem m).halted = s.halted := rfl
@[simp] theorem State.setMem_dirty (m : Memory) : (s.setMem m).dirty = s.dirty := rfl
@[simp] theorem State.setMem_acc (m : Memory) : (s.setMem m).acc = s.acc := rfl
@[simp] theorem State.setMem_outcome (m : Memory) : (s.setMem m).outcome = s.outcome := rfl
@[simp] theorem State.setMem_elapsedIn (m : Memory) : (s.setMem m).elapsedIn = s.elapsedIn := rfl
@[simp] theorem State.setMem_ticks (m : Memory) : (s.setMem m).ticks = s.ticks := rfl
@[simp] theorem State.setMem_draws (m : Memory) : (s.setMem m).draws = s.draws := rfl
@[simp] theorem State.setMem_loaded (m : Memory) : (s.setMem m).loaded = s.loaded := rfl
@[simp] theorem State.setMem_getV (m : Memory) (y : RegIx) : (s.setMem m).getV y = s.getV y := rfl

/-! ### State.markLoaded -/

@[simp] theorem State.markLoaded_v : s.markLoaded.v = s.v := rfl
@[simp] theorem State.markLoaded_index : s.markLoaded.index = s.index := rfl
@[simp] theorem State.markLoaded_pc : s.markLoaded.pc = s.pc := rfl
@[simp] theorem State.markLoaded_dt : s.markLoaded.dt = s.dt := rfl
@[simp] theorem State.markLoaded_st : s.markLoaded.st = s.st := rfl
@[simp] theorem State.markLoaded_stack : s.markLoaded.stack = s.stack := rfl
@[simp] theorem State.markLoaded_keys : s.markLoaded.keys = s.keys := rfl
@[simp] theorem State.markLoaded_disp : s.markLoaded.disp = s.disp := rfl
@[simp] theorem State.markLoaded_mem : s.markLoaded.mem = s.mem := rfl
@[simp] theorem State.markLoaded_pending : s.markLoaded.pending = s.pending := rfl
@[simp] theorem State.markLoaded_halted : s.markLoaded.halted = s.halted := rfl
@[simp] theorem State.markLoaded_dirty : s.markLoaded.dirty = s.dirty := rfl
@[simp] theorem State.markLoaded_acc : s.markLoaded.acc = s.acc := rfl
@[simp] theorem State.markLoaded_outcome : s.markLoaded.outcome = s.outcome := rfl
@[simp] theorem State.markLoaded_elapsedIn : s.markLoaded.elapsedIn = s.elapsedIn := rfl
@[simp] theorem State.markLoaded_ticks : s.markLoaded.ticks = s.ticks := rfl
@[simp] theorem State.markLoaded_draws : s.markLoaded.draws = s.draws := rfl
@[simp] theorem State.markLoaded_loaded : s.markLoaded.loaded = true := rfl
@[simp] theorem State.markLoaded_getV (y : RegIx) : s.markLoaded.getV y = s.getV y := rfl

/-! ### State.setStack -/

@[simp] theorem State.setStack_v (l : List Word) : (s.setStack l).v = s.v := rfl
@[simp] theorem State.setStack_index (l : List Word) : (s.setStack l).index = s.index := rfl
@[simp] theorem State.setStack_pc (l : List Word) : (s.setStack l).pc = s.pc := rfl
@[simp] theorem State.setStack_dt (l : List Word) : (s.setStack l).dt = s.dt := rfl
@[simp] theorem State.setStack_st (l : List Word) : (s.setStack l).st = s.st := rfl
@[simp] theorem State.setStack_stack (l : List Word) : (s.setStack l).stack = l := rfl
@[simp] theorem State.setStack_keys (l : List Word) : (s.setStack l).keys = s.keys := rfl
@[simp] theorem State.setStack_disp (l : List Word) : (s.setStack l).disp = s.disp := rfl
@[simp] theorem State.setStack_mem (l : List Word) : (s.setStack l).mem = s.mem := rfl
@[simp] theorem State.setStack_pending (l : List Word) : (s.setStack l).pending = s.pending := rfl
@[simp] theorem State.setStack_halted (l : List Word) : (s.setStack l).halted = s.halted := rfl
@[simp] theorem State.setStack_dirty (l : List Word) : (s.setStack l).dirty = s.dirty := rfl
@[simp] theorem State.setStack_acc (l : List Word) : (s.setStack l).acc = s.acc := rfl
@[simp] theorem State.setStack_outcome (l : List Word) : (s.setStack l).outcome = s.outcome := rfl
@[simp] theorem State.setStack_elapsedIn (l : List Word) : (s.setStack l).elapsedIn = s.elapsedIn := rfl
@[simp] theorem State.setStack_ticks (l : List Word) : (s.setStack l).ticks = s.ticks := rfl
@[simp] theorem State.setStack_draws (l : List Word) : (s.setStack l).draws = s.draws := rfl
@[simp] theorem State.setStack_loaded (l : List Word) : (s.setStack l).loaded = s.loaded := rfl
@[simp] theorem State.setStack_getV (l : List Word) (y : RegIx) : (s.setStack l).getV y = s.getV y := rfl

/-! ### State.setPending -/

@[simp] theorem State.setPending_v (p : Option RegIx) : (s.setPending p).v = s.v := rfl
@[simp] theorem State.setPending_index (p : Option RegIx) : (s.setPending p).index = s.index := rfl
@[simp] theorem State.setPending_pc (p : Option RegIx) : (s.setPending p).pc = s.pc := rfl
@[simp] theorem State.setPending_dt (p : Option RegIx) : (s.setPending p).dt = s.dt := rfl
@[simp] theorem State.setPending_st (p : Option RegIx) : (s.setPending p).st = s.st := rfl
@[simp] theorem State.setPending_stack (p : Option RegIx) : (s.setPending p).stack = s.stack := rfl
@[simp] theorem State.setPending_keys (p : Option RegIx) : (s.setPending p).keys = s.keys := rfl
@[simp] theorem State.setPending_disp (p : Option RegIx) : (s.setPending p).disp = s.disp := rfl
@[simp] theorem State.setPending_mem (p : Option RegIx) : (s.setPending p).mem = s.mem := rfl
@[simp] theorem State.setPending_pending (p : Option RegIx) : (s.setPending p).pending = p := rfl
@[simp] theorem State.setPending_halted (p : Option RegIx) : (s.setPending p).halted = s.halted := rfl
@[simp] theorem State.setPending_dirty (p : Option RegIx) : (s.setPending p).dirty = s.dirty := rfl
@[simp] theorem State.setPending_acc (p : Option RegIx) : (s.setPending p).acc = s.acc := rfl
@[simp] theorem State.setPending_outcome (p : Option RegIx) : (s.setPending p).outcome = s.outcome := rfl
@[simp] theorem State.setPending_elapsedIn (p : Option RegIx) : (s.setPending p).elapsedIn = s.elapsedIn := rfl
@[simp] theorem State.setPending_ticks (p : Option RegIx) : (s.setPending p).ticks = s.ticks := rfl
@[simp] theorem State.setPending_draws (p : Option RegIx) : (s.setPending p).draws = s.draws := rfl
@[simp] theorem State.setPending_loaded (p : Option RegIx) : (s.setPending p).loaded = s.loaded := rfl
@[simp] theorem State.setPending_getV (p : Option RegIx) (y : RegIx) : (s.setPending p).getV y = s.getV y := rfl

/-! ### State.haltIf -/

@[simp] theorem State.haltIf_v (c : Bool) : (s.haltIf c).v = s.v := rfl
@[simp] theorem State.haltIf_index (c : Bool) : (s.haltIf c).index = s.index := rfl
@[simp] theorem State.haltIf_pc (c : Bool) : (s.haltIf c).pc = s.pc := rfl
@[simp] theorem State.haltIf_dt (c : Bool) : (s.haltIf c).dt = s.dt := rfl
@[simp] theorem State.haltIf_st (c : Bool) : (s.haltIf c).st = s.st := rfl
@[simp] theorem State.haltIf_stack (c : Bool) : (s.haltIf c).stack = s.stack := rfl
@[simp] theorem State.haltIf_keys (c : Bool) : (s.haltIf c).keys = s.keys := rfl
@[simp] theorem State.haltIf_disp (c : Bool) : (s.haltIf c).disp = s.disp := rfl
@[simp] theorem State.haltIf_mem (c : Bool) : (s.haltIf c).mem = s.mem := rfl
@[simp] theorem State.haltIf_pending (c : Bool) : (s.haltIf c).pending = s.pending := rfl
@[simp] theorem State.haltIf_halted (c : Bool) : (s.haltIf c).halted = (s.halted || c) := rfl
@[simp] theorem State.haltIf_dirty (c : Bool) : (s.haltIf c).dirty = s.dirty := rfl
@[simp] theorem State.haltIf_acc (c : Bool) : (s.haltIf c).acc = s.acc := rfl
@[simp] theorem State.haltIf_outcome (c : Bool) : (s.haltIf c).outcome = s.outcome := rfl
@[simp] theorem State.haltIf_elapsedIn (c : Bool) : (s.haltIf c).elapsedIn = s.elapsedIn := rfl
@[simp] theorem State.haltIf_ticks (c : Bool) : (s.haltIf c).ticks = s.ticks := rfl
@[simp] theorem State.haltIf_draws (c : Bool) : (s.haltIf c).draws = s.draws := rfl
@[simp] theorem State.haltIf_loaded (c : Bool) : (s.haltIf c).loaded = s.loaded := rfl
@[simp] theorem State.haltIf_getV (c : Bool) (y : RegIx) : (s.haltIf c).getV y = s.getV y := rfl

/-! ### State.countDraw -/

@[simp] theorem State.countDraw_v : s.countDraw.v = s.v := rfl
@[simp] theorem State.countDraw_index : s.countDraw.index = s.index := rfl
@[simp] theorem State.countDraw_pc : s.countDraw.pc = s.pc := rfl
@[simp] theorem State.countDraw_dt : s.countDraw.dt = s.dt := rfl
@[simp] theorem State.countDraw_st : s.countDraw.st = s.st := rfl
@[simp] theorem State.countDraw_stack : s.countDraw.stack = s.stack := rfl
@[simp] theorem State.countDraw_keys : s.countDraw.keys = s.keys := rfl
@[simp] theorem State.countDraw_disp : s.countDraw.disp = s.disp := rfl
@[simp] theorem State.countDraw_mem : s.countDraw.mem = s.mem := rfl
@[simp] theorem State.countDraw_pending : s.countDraw.pending = s.pending := rfl
@[simp] theorem State.countDraw_halted : s.countDraw.halted = s.halted := rfl
@[simp] theorem State.countDraw_dirty : s.countDraw.dirty = s.dirty := rfl
@[simp] theorem State.countDraw_acc : s.countDraw.acc = s.acc := rfl
@[simp] theorem State.countDraw_outcome : s.countDraw.outcome = s.outcome := rfl
@[simp] theorem State.countDraw_elapsedIn : s.countDraw.elapsedIn = s.elapsedIn := rfl
@[simp] theorem State.countDraw_ticks : s.countDraw.ticks = s.ticks := rfl
@[simp] theorem State.countDraw_draws : s.countDraw.draws = s.draws + 1 := rfl
@[simp] theorem State.countDraw_loaded : s.countDraw.loaded = s.loaded := rfl
@[simp] theorem State.countDraw_getV (y : RegIx) : s.countDraw.getV y = s.getV y := rfl

/-! ### State.setFrame -/

@[simp] theorem State.setFrame_v (d : Display) (c : Bool) : (s.setFrame d c).v = s.v := rfl
@[simp] theorem State.setFrame_index (d : Display) (c : Bool) : (s.setFrame d c).index = s.index := rfl
@[simp] theorem State.setFrame_pc (d : Display) (c : Bool) : (s.setFrame d c).pc = s.pc := rfl
@[simp] theorem State.setFrame_dt (d : Display) (c : Bool) : (s.setFrame d c).dt = s.dt := rfl
@[simp] theorem State.setFrame_st (d : Display) (c : Bool) : (s.setFrame d c).st = s.st := rfl
@[simp] theorem State.setFrame_stack (d : Display) (c : Bool) : (s.setFrame d c).stack = s.stack := rfl
@[simp] theorem State.setFrame_keys (d : Display) (c : Bool) : (s.setFrame d c).keys = s.keys := rfl
@[simp] theorem State.setFrame_disp (d : Display) (c : Bool) : (s.setFrame d c).disp = d := rfl
@[simp] theorem State.setFrame_mem (d : Display) (c : Bool) : (s.setFrame d c).mem = s.mem := rfl
@[simp] theorem State.setFrame_pending (d : Display) (c : Bool) : (s.setFrame d c).pending = s.pending := rfl
@[simp] theorem State.setFrame_halted (d : Display) (c : Bool) : (s.setFrame d c).halted = s.halted := rfl
@[simp] theorem State.setFrame_dirty (d : Display) (c : Bool) : (s.setFrame d c).dirty = c := rfl
@[simp] theorem State.setFrame_acc (d : Display) (c : Bool) : (s.setFrame d c).acc = s.acc := rfl
@[simp] theorem State.setFrame_outcome (d : Display) (c : Bool) : (s.setFrame d c).outcome = s.outcome := rfl
@[simp] theorem State.setFrame_elapsedIn (d : Display) (c : Bool) : (s.setFrame d c).elapsedIn = s.elapsedIn := rfl
@[simp] theorem State.setFrame_ticks (d : Display) (c : Bool) : (s.setFrame d c).ticks = s.ticks := rfl
@[simp] theorem State.setFrame_draws (d : Display) (c : Bool) : (s.setFrame d c).draws = s.draws := rfl
@[simp] theorem State.setFrame_loaded (d : Display) (c : Bool) : (s.setFrame d c).loaded = s.loaded := rfl
@[simp] theorem State.setFrame_getV (d : Display) (c : Bool) (y : RegIx) : (s.setFrame d c).getV y = s.getV y := rfl

/-! ### State.setFlag -/

@[simp] theorem State.setFlag_v (f : Bool) : (s.setFlag f).v = s.v.set flagReg.toNat (flagByte f) := rfl
@[simp] theorem State.setFlag_index (f : Bool) : (s.setFlag f).index = s.index := rfl
@[simp] theorem State.setFlag_pc (f : Bool) : (s.setFlag f).pc = s.pc := rfl
@[simp] theorem State.setFlag_dt (f : Bool) : (s.setFlag f).dt = s.dt := rfl
@[simp] theorem State.setFlag_st (f : Bool) : (s.setFlag f).st = s.st := rfl
@[simp] theorem State.setFlag_stack (f : Bool) : (s.setFlag f).stack = s.stack := rfl
@[simp] theorem State.setFlag_keys (f : Bool) : (s.setFlag f).keys = s.keys := rfl
@[simp] theorem State.setFlag_disp (f : Bool) : (s.setFlag f).disp = s.disp := rfl
@[simp] theorem State.setFlag_mem (f : Bool) : (s.setFlag f).mem = s.mem := rfl
@[simp] theorem State.setFlag_pending (f : Bool) : (s.setFlag f).pending = s.pending := rfl
@[simp] theorem State.setFlag_halted (f : Bool) : (s.setFlag f).halted = s.halted := rfl
@[simp] theorem State.setFlag_dirty (f : Bool) : (s.setFlag f).dirty = s.dirty := rfl
@[simp] theorem State.setFlag_acc (f : Bool) : (s.setFlag f).acc = s.acc := rfl
@[simp] theorem State.setFlag_outcome (f : Bool) : (s.setFlag f).outcome = s.outcome := rfl
@[simp] theorem State.setFlag_elapsedIn (f : Bool) : (s.setFlag f).elapsedIn = s.elapsedIn := rfl
@[simp] theorem State.setFlag_ticks (f : Bool) : (s.setFlag f).ticks = s.ticks := rfl
@[simp] theorem State.setFlag_draws (f : Bool) : (s.setFlag f).draws = s.draws := rfl
@[simp] theorem State.setFlag_loaded (f : Bool) : (s.setFlag f).loaded = s.loaded := rfl

/-! ### State.setResult -/

@[simp] theorem State.setResult_v (x : RegIx) (b : Byte) (f : Bool) : (s.setResult x b f).v = (s.v.set x.toNat b).set flagReg.toNat (flagByte f) := rfl
@[simp] theorem State.setResult_index (x : RegIx) (b : Byte) (f : Bool) : (s.setResult x b f).index = s.index := rfl
@[simp] theorem State.setResult_pc (x : RegIx) (b : Byte) (f : Bool) : (s.setResult x b f).pc = s.pc := rfl
@[simp] theorem State.setResult_dt (x : RegIx) (b : Byte) (f : Bool) : (s.setResult x b f).dt = s.dt := rfl
@[simp] theorem State.setResult_st (x : RegIx) (b : Byte) (f : Bool) : (s.setResult x b f).st = s.st := rfl
@[simp] theorem State.setResult_stack (x : RegIx) (b : Byte) (f : Bool) : (s.setResult x b f).stack = s.stack := rfl
@[simp] theorem State.setResult_keys (x : RegIx) (b : Byte) (f : Bool) : (s.setResult x b f).keys = s.keys := rfl
@[simp] theorem State.setResult_disp (x : RegIx) (b : Byte) (f : Bool) : (s.setResult x b f).disp = s.disp := rfl
@[simp] theorem State.setResult_mem (x : RegIx) (b : Byte) (f : Bool) : (s.setResult x b f).mem = s.mem := rfl
@[simp] theorem State.setResult_pending (x : RegIx) (b : Byte) (f : Bool) : (s.setResult x b f).pending = s.pending := rfl
@[simp] theorem State.setResult_halted (x : RegIx) (b : Byte) (f : Bool) : (s.setResult x b f).halted = s.halted := rfl
@[simp] theorem State.setResult_dirty (x : RegIx) (b : Byte) (f : Bool) : (s.setResult x b f).dirty = s.dirty := rfl
@[simp] theorem State.setResult_acc (x : RegIx) (b : Byte) (f : Bool) : (s.setResult x b f).acc = s.acc := rfl
@[simp] theorem State.setResult_outcome (x : RegIx) (b : Byte) (f : Bool) : (s.setResult x b f).outcome = s.outcome := rfl
@[simp] theorem State.setResult_elapsedIn (x : RegIx) (b : Byte) (f : Bool) : (s.setResult x b f).elapsedIn = s.elapsedIn := rfl
@[simp] theorem State.setResult_ticks (x : RegIx) (b : Byte) (f : Bool) : (s.setResult x b f).ticks = s.ticks := rfl
@[simp] theorem State.setResult_draws (x : RegIx) (b : Byte) (f : Bool) : (s.setResult x b f).draws = s.draws := rfl
@[simp] theorem State.setResult_loaded (x : RegIx) (b : Byte) (f : Bool) : (s.setResult x b f).loaded = s.loaded := rfl

/-! ### State.finish -/

@[simp] theorem State.finish_v (w : Word) : (s.finish w).v = s.v := rfl
@[simp] theorem State.finish_index (w : Word) : (s.finish w).index = s.index := rfl
@[simp] theorem State.finish_pc (w : Word) : (s.finish w).pc = w := rfl
@[simp] theorem State.finish_dt (w : Word) : (s.finish w).dt = s.dt := rfl
@[simp] theorem State.finish_st (w : Word) : (s.finish w).st = s.st := rfl
@[simp] theorem State.finish_stack (w : Word) : (s.finish w).stack = s.stack := rfl
@[simp] theorem State.finish_keys (w : Word) : (s.finish w).keys = s.keys := rfl
@[simp] theorem State.finish_disp (w : Word) : (s.finish w).disp = s.disp := rfl
@[simp] theorem State.finish_mem (w : Word) : (s.finish w).mem = s.mem := rfl
@[simp] theorem State.finish_pending (w : Word) : (s.finish w).pending = s.pending := rfl
@[simp] theorem State.finish_halted (w : Word) : (s.finish w).halted = s.halted := rfl
@[simp] theorem State.finish_dirty (w : Word) : (s.finish w).dirty = s.dirty := rfl
@[simp] theorem State.finish_acc (w : Word) : (s.finish w).acc = s.acc := rfl
@[simp] theorem State.finish_outcome (w : Word) : (s.finish w).outcome = .ok := rfl
@[simp] theorem State.finish_elapsedIn (w : Word) : (s.finish w).elapsedIn = s.elapsedIn := rfl
@[simp] theorem State.finish_ticks (w : Word) : (s.finish w).ticks = s.ticks := rfl
@[simp] theorem State.finish_draws (w : Word) : (s.finish w).draws = s.draws := rfl
@[simp] theorem State.finish_loaded (w : Word) : (s.finish w).loaded = s.loaded := rfl
@[simp] theorem State.finish_getV (w : Word) (y : RegIx) : (s.finish w).getV y = s.getV y := rfl

/-! ### State.raised -/

@[simp] theorem State.raised_v (e : CoreError) : (s.raised e).v = s.v := rfl
@[simp] theorem State.raised_index (e : CoreError) : (s.raised e).index = s.index := rfl
@[simp] theorem State.raised_pc (e : CoreError) : (s.raised e).pc = s.pc := rfl
@[simp] theorem State.raised_dt (e : CoreError) : (s.raised e).dt = s.dt := rfl
@[simp] theorem State.raised_st (e : CoreError) : (s.raised e).st = s.st := rfl
@[simp] theorem State.raised_stack (e : CoreError) : (s.raised e).stack = s.stack := rfl
@[simp] theorem State.raised_keys (e : CoreError) : (s.raised e).keys = s.keys := rfl
@[simp] theorem State.raised_disp (e : CoreError) : (s.raised e).disp = s.disp := rfl
@[simp] theorem State.raised_mem (e : CoreError) : (s.raised e).mem = s.mem := rfl
@[simp] theorem State.raised_pending (e : CoreError) : (s.raised e).pending = s.pending := rfl
@[simp] theorem State.raised_halted (e : CoreError) : (s.raised e).halted = true := rfl
@[simp] theorem State.raised_dirty (e : CoreError) : (s.raised e).dirty = s.dirty := rfl
@[simp] theorem State.raised_acc (e : CoreError) : (s.raised e).acc = s.acc := rfl
@[simp] theorem State.raised_outcome (e : CoreError) : (s.raised e).outcome = .error e := rfl
@[simp] theorem State.raised_elapsedIn (e : CoreError) : (s.raised e).elapsedIn = s.elapsedIn := rfl
@[simp] theorem State.raised_ticks (e : CoreError) : (s.raised e).ticks = s.ticks := rfl
@[simp] theorem State.raised_draws (e : CoreError) : (s.raised e).draws = s.draws := rfl
@[simp] theorem State.raised_loaded (e : CoreError) : (s.raised e).loaded = s.loaded := rfl
@[simp] theorem State.raised_getV (e : CoreError) (y : RegIx) : (s.raised e).getV y = s.getV y := rfl

/-! ### timerPass -/

@[simp] theorem timerPass_v (n : Nat) : (timerPass n s).v = s.v := rfl
@[simp] theorem timerPass_index (n : Nat) : (timerPass n s).index = s.index := rfl
@[simp] theorem timerPass_pc (n : Nat) : (timerPass n s).pc = s.pc := rfl
@[simp] theorem timerPass_dt (n : Nat) : (timerPass n s).dt = decayed s.dt ((s.acc + 60 * n) / decayInterval) := rfl
@[simp] theorem timerPass_st (n : Nat) : (timerPass n s).st = decayed s.st ((s.acc + 60 * n) / decayInterval) := rfl
@[simp] theorem timerPass_stack (n : Nat) : (timerPass n s).stack = s.stack := rfl
@[simp] theorem timerPass_keys (n : Nat) : (timerPass n s).keys = s.keys := rfl
@[simp] theorem timerPass_disp (n : Nat) : (timerPass n s).disp = s.disp := rfl
@[simp] theorem timerPass_mem (n : Nat) : (timerPass n s).mem = s.mem := rfl
@[simp] theorem timerPass_pending (n : Nat) : (timerPass n s).pending = s.pending := rfl
@[simp] theorem timerPass_halted (n : Nat) : (timerPass n s).halted = s.halted := rfl
@[simp] theorem timerPass_dirty (n : Nat) : (timerPass n s).dirty = s.dirty := rfl
@[simp] theorem timerPass_acc (n : Nat) : (timerPass n s).acc = (s.acc + 60 * n) % decayInterval := rfl
@[simp] theorem timerPass_outcome (n : Nat) : (timerPass n s).outcome = s.outcome := rfl
@[simp] theorem timerPass_elapsedIn (n : Nat) : (timerPass n s).elapsedIn = s.elapsedIn := rfl
@[simp] theorem timerPass_ticks (n : Nat) : (timerPass n s).ticks = s.ticks := rfl
@[simp] theorem timerPass_draws (n : Nat) : (timerPass n s).draws = s.draws := rfl
@[simp] theorem timerPass_loaded (n : Nat) : (timerPass n s).loaded = s.loaded := rfl
@[simp] theorem timerPass_getV (n : Nat) (y : RegIx) : (timerPass n s).getV y = s.getV y := rfl

/-! ### endTick -/

@[simp] theorem endTick_v (n : Nat) : (endTick n s).v = s.v := rfl
@[simp] theorem endTick_index (n : Nat) : (endTick n s).index = s.index := rfl
@[simp] theorem endTick_pc (n : Nat) : (endTick n s).pc = s.pc := rfl
@[simp] theorem endTick_dt (n : Nat) : (endTick n s).dt = decayed s.dt ((s.acc + 60 * n) / decayInterval) := rfl
@[simp] theorem endTick_st (n : Nat) : (endTick n s).st = decayed s.st ((s.acc + 60 * n) / decayInterval) := rfl
@[simp] theorem endTick_stack (n : Nat) : (endTick n s).stack = s.stack := rfl
@[simp] theorem endTick_keys (n : Nat) : (endTick n s).keys = s.keys := rfl
@[simp] theorem endTick_disp (n : Nat) : (endTick n s).disp = s.disp := rfl
@[simp] theorem endTick_mem (n : Nat) : (endTick n s).mem = s.mem := rfl
@[simp] theorem endTick_pending (n : Nat) : (endTick n s).pending = s.pending := rfl
@[simp] theorem endTick_halted (n : Nat) : (endTick n s).halted = s.halted := rfl
@[simp] theorem endTick_dirty (n : Nat) : (endTick n s).dirty = s.dirty := rfl
@[simp] theorem endTick_acc (n : Nat) : (endTick n s).acc = (s.acc + 60 * n) % decayInterval := rfl
@[simp] theorem endTick_outcome (n : Nat) : (endTick n s).outcome = s.outcome := rfl
@[simp] theorem endTick_elapsedIn (n : Nat) : (endTick n s).elapsedIn = s.elapsedIn.tail := rfl
@[simp] theorem endTick_ticks (n : Nat) : (endTick n s).ticks = s.ticks + 1 := rfl
@[simp] theorem endTick_draws (n : Nat) : (endTick n s).draws = s.draws := rfl
@[simp] theorem endTick_loaded (n : Nat) : (endTick n s).loaded = s.loaded := rfl
@[simp] theorem endTick_getV (n : Nat) (y : RegIx) : (endTick n s).getV y = s.getV y := rfl

/-! ### setKey -/

@[simp] theorem setKey_v (k : Fin 16) (c : Bool) : (setKey k c s).v = s.v := rfl
@[simp] theorem setKey_index (k : Fin 16) (c : Bool) : (setKey k c s).index = s.index := rfl
@[simp] theorem setKey_pc (k : Fin 16) (c : Bool) : (setKey k c s).pc = s.pc := rfl
@[simp] theorem setKey_dt (k : Fin 16) (c : Bool) : (setKey k c s).dt = s.dt := rfl
@[simp] theorem setKey_st (k : Fin 16) (c : Bool) : (setKey k c s).st = s.st := rfl
@[simp] theorem setKey_stack (k : Fin 16) (c : Bool) : (setKey k c s).stack = s.stack := rfl
@[simp] theorem setKey_keys (k : Fin 16) (c : Bool) : (setKey k c s).keys = s.keys.set k.val c := rfl
@[simp] theorem setKey_disp (k : Fin 16) (c : Bool) : (setKey k c s).disp = s.disp := rfl
@[simp] theorem setKey_mem (k : Fin 16) (c : Bool) : (setKey k c s).mem = s.mem := rfl
@[simp] theorem setKey_pending (k : Fin 16) (c : Bool) : (setKey k c s).pending = s.pending := rfl
@[simp] theorem setKey_halted (k : Fin 16) (c : Bool) : (setKey k c s).halted = s.halted := rfl
@[simp] theorem setKey_dirty (k : Fin 16) (c : Bool) : (setKey k c s).dirty = s.dirty := rfl
@[simp] theorem setKey_acc (k : Fin 16) (c : Bool) : (setKey k c s).acc = s.acc := rfl
@[simp] theorem setKey_outcome (k : Fin 16) (c : Bool) : (setKey k c s).outcome = s.outcome := rfl
@[simp] theorem setKey_elapsedIn (k : Fin 16) (c : Bool) : (setKey k c s).elapsedIn = s.elapsedIn := rfl
@[simp] theorem setKey_ticks (k : Fin 16) (c : Bool) : (setKey k c s).ticks = s.ticks := rfl
@[simp] theorem setKey_draws (k : Fin 16) (c : Bool) : (setKey k c s).draws = s.draws := rfl
@[simp] theorem setKey_loaded (k : Fin 16) (c : Bool) : (setKey k c s).loaded = s.loaded := rfl
@[simp] theorem setKey_getV (k : Fin 16) (c : Bool) (y : RegIx) : (setKey k c s).getV y = s.getV y := rfl

/-! ### clearDirty -/

@[simp] theorem clearDirty_v : (clearDirty s).v = s.v := rfl
@[simp] theorem clearDirty_index : (clearDirty s).index = s.index := rfl
@[simp] theorem clearDirty_pc : (clearDirty s).pc = s.pc := rfl
@[simp] theorem clearDirty_dt : (clearDirty s).dt = s.dt := rfl
@[simp] theorem clearDirty_st : (clearDirty s).st = s.st := rfl
@[simp] theorem clearDirty_stack : (clearDirty s).stack = s.stack := rfl
@[simp] theorem clearDirty_keys : (clearDirty s).keys = s.keys := rfl
@[simp] theorem clearDirty_disp : (clearDirty s).disp = s.disp := rfl
@[simp] theorem clearDirty_mem : (clearDirty s).mem = s.mem := rfl
@[simp] theorem clearDirty_pending : (clearDirty s).pending = s.pending := rfl
@[simp] theorem clearDirty_halted : (clearDirty s).halted = s.halted := rfl
@[simp] theorem clearDirty_dirty : (clearDirty s).dirty = false := rfl
@[simp] theorem clearDirty_acc : (clearDirty s).acc = s.acc := rfl
@[simp] theorem clearDirty_outcome : (clearDirty s).outcome = s.outcome := rfl
@[simp] theorem clearDirty_elapsedIn : (clearDirty s).elapsedIn = s.elapsedIn := rfl
@[simp] theorem clearDirty_ticks : (clearDirty s).ticks = s.ticks := rfl
@[simp] theorem clearDirty_draws : (clearDirty s).draws = s.draws := rfl
@[simp] theorem clearDirty_loaded : (clearDirty s).loaded = s.loaded := rfl
@[simp] theorem clearDirty_getV (y : RegIx) : (clearDirty s).getV y = s.getV y := rfl

/-! ### giveElapsed -/

@[simp] theorem giveElapsed_v (l : List Nat) : (giveElapsed l s).v = s.v := rfl
@[simp] theorem giveElapsed_index (l : List Nat) : (giveElapsed l s).index = s.index := rfl
@[simp] theorem giveElapsed_pc (l : List Nat) : (giveElapsed l s).pc = s.pc := rfl
@[simp] theorem giveElapsed_dt (l : List Nat) : (giveElapsed l s).dt = s.dt := rfl
@[simp] theorem giveElapsed_st (l : List Nat) : (giveElapsed l s).st = s.st := rfl
@[simp] theorem giveElapsed_stack (l : List Nat) : (giveElapsed l s).stack = s.stack := rfl
@[simp] theorem giveElapsed_keys (l : List Nat) : (giveElapsed l s).keys = s.keys := rfl
@[simp] theorem giveElapsed_disp (l : List Nat) : (giveElapsed l s).disp = s.disp := rfl
@[simp] theorem giveElapsed_mem (l : List Nat) : (giveElapsed l s).mem = s.mem := rfl
@[simp] theorem giveElapsed_pending (l : List Nat) : (giveElapsed l s).pending = s.pending := rfl
@[simp] theorem giveElapsed_halted (l : List Nat) : (giveElapsed l s).halted = s.halted := rfl
@[simp] theorem giveElapsed_dirty (l : List Nat) : (giveElapsed l s).dirty = s.dirty := rfl
@[simp] theorem giveElapsed_acc (l : List Nat) : (giveElapsed l s).acc = s.acc := rfl
@[simp] theorem giveElapsed_outcome (l : List Nat) : (giveElapsed l s).outcome = s.outcome := rfl
@[simp] theorem giveElapsed_elapsedIn (l : List Nat) : (giveElapsed l s).elapsedIn = l := rfl
@[simp] theorem giveElapsed_ticks (l : List Nat) : (giveElapsed l s).ticks = s.ticks := rfl
@[simp] theorem giveElapsed_draws (l : List Nat) : (giveElapsed l s).draws = s.draws := rfl
@[simp] theorem giveElapsed_loaded (l : List Nat) : (giveElapsed l s).loaded = s.loaded := rfl
@[simp] theorem giveElapsed_getV (l : List Nat) (y : RegIx) : (giveElapsed l s).getV y = s.getV y := rfl

end Sys2Proof.Machine
end

