-- ==== Sys2Proof/Laws/Ops.lean ====
section
/-! SUPPORT. One law per shared operation: everything the operation can answer. -/

namespace Sys2Proof.Machine

/-! ### Registers -/

@[simp] theorem getV_setV_same (s : State) (x : RegIx) (b : Byte) : (s.setV x b).getV x = b := by
  simp [State.getV]

theorem getV_setV_ne (s : State) {x y : RegIx} (b : Byte) (h : y ≠ x) : (s.setV x b).getV y = s.getV y := by
  have : x.toNat ≠ y.toNat := fun e => h (BitVec.eq_of_toNat_eq e.symm)
  simp [State.getV, this]

/-- Reading after a register write, in one equation (10_state R22). -/
theorem getV_setV (s : State) (x y : RegIx) (b : Byte) : (s.setV x b).getV y = if y = x then b else s.getV y := by
  split
  · rename_i h; rw [h, getV_setV_same]
  · rename_i h; rw [getV_setV_ne s b h]

/-- A result with its flag: the flag stands in VF, whatever x is (41_alu R142). -/
theorem getV_setResult (s : State) (x y : RegIx) (b : Byte) (f : Bool) :
    (s.setResult x b f).getV y = if y = 0xF then flagByte f else if y = x then b else s.getV y := by
  simp [State.setResult, State.setFlag, flagReg, getV_setV]

@[simp] theorem getV_setFlag (s : State) (f : Bool) (y : RegIx) :
    (s.setFlag f).getV y = if y = 0xF then flagByte f else s.getV y := by
  simp [State.setFlag, flagReg, getV_setV]

/-- A block load into the registers replaces registers k, k+1, ... and no other (42_memory_index R168). -/
theorem getElem_loadRegs (k : Nat) (bs : List Byte) (v : Vector Byte 16) (j : Nat) (hj : j < 16) :
    (loadRegs k bs v)[j] = if h : k ≤ j ∧ j < k + bs.length then bs[j - k]'(by omega) else v[j] := by
  induction bs generalizing k v with
  | nil => simp [loadRegs]
  | cons b bs ih =>
    simp only [loadRegs, ih, List.length_cons]
    by_cases h1 : k + 1 ≤ j ∧ j < k + 1 + bs.length
    · rw [dif_pos h1, dif_pos (by omega)]
      have : j - k = (j - (k + 1)) + 1 := by omega
      simp [this]
    · rw [dif_neg h1]
      by_cases h2 : k = j
      · subst h2; simp
      · rw [dif_neg (by omega), Vector.getElem_setIfInBounds_ne (h := h2)]

/-! ### How a step ends -/

/-- The check passed and the rest ran, or the error was taken (60_exceptions R266). -/
theorem orRaise_cases {α : Type} (r : Except CoreError α) (s : State) (k : α → Out) :
    (∃ a, r = .ok a ∧ orRaise r s k = k a) ∨ (∃ e, r = .error e ∧ orRaise r s k = .next (s.raised e)) := by
  cases r with
  | ok a => exact .inl ⟨a, rfl, rfl⟩
  | error e => exact .inr ⟨e, rfl, rfl⟩

@[simp] theorem advance_eq (s : State) : advance s = .next (s.finish (s.pc + 2)) := rfl

@[simp] theorem jumpTo_eq (w : Word) (s : State) : jumpTo w s = .next (s.finish w) := rfl

@[simp] theorem skipIf_eq (c : Bool) (s : State) :
    skipIf c s = .next (s.finish (if c then s.pc + 4 else s.pc + 2)) := rfl

@[simp] theorem raise_eq (e : CoreError) (s : State) : raise e s = .next (s.raised e) := rfl

/-! ### The call stack -/

/-- A push: the word on top, or the overflow error (10_state R33). -/
theorem push_cases (w : Word) (s : State) :
    (s.stack.length < 16 ∧ push w s = .ok (s.setStack (s.stack ++ [w]))) ∨
    (16 ≤ s.stack.length ∧ push w s = .error (.callStackOverflow s.pc)) := by
  unfold push stackCapacity
  split
  · exact .inr ⟨by assumption, rfl⟩
  · exact .inl ⟨by omega, rfl⟩

/-- A pop: the top and the rest, or the error on an empty stack (10_state R33). -/
theorem pop_cases (s : State) :
    (∃ l w, s.stack = l ++ [w] ∧ pop s = .ok (w, s.setStack l)) ∨
    (s.stack = [] ∧ pop s = .error (.emptyStackReturn s.pc)) := by
  unfold pop
  rcases List.eq_nil_or_concat s.stack with h | ⟨l, w, h⟩
  · right; simp [h]
  · left; exact ⟨l, w, by simpa using h, by simp [h]⟩

/-! ### Keys -/

/-- Reading the key numbered by a byte (43_timer_key R183). -/
theorem readKey_cases (s : State) (k : Byte) :
    (∃ h : k.toNat < 16, readKey s k = .ok s.keys[k.toNat]) ∨
    (15 < k.toNat ∧ readKey s k = .error (.outOfRangeAccess (.key k))) := by
  unfold readKey
  split
  · rename_i h; exact .inl ⟨h, rfl⟩
  · exact .inr ⟨by omega, rfl⟩

/-- No key is pressed exactly when there is no lowest pressed key. -/
theorem lowestKey_none (keys : Vector Bool 16) : lowestKey keys = none ↔ ∀ b ∈ keys.toList, b = false := by
  simp [lowestKey]

/-- The lowest pressed key is pressed and no lower one is (43_timer_key R187). -/
theorem lowestKey_some (keys : Vector Bool 16) (k : Nat) :
    lowestKey keys = some k ↔ keys.toList[k]? = some true ∧ ∀ j < k, keys.toList[j]? = some false := by
  unfold lowestKey
  rw [List.findIdx?_eq_some_iff_getElem]
  constructor
  · rintro ⟨h, h1, h2⟩
    refine ⟨by simpa [List.getElem?_eq_getElem h] using h1, fun j hj => ?_⟩
    have := h2 j hj
    rw [List.getElem?_eq_getElem (by omega)]
    simpa using this
  · rintro ⟨h1, h2⟩
    obtain ⟨h, he⟩ := List.getElem?_eq_some_iff.mp h1
    refine ⟨h, by simpa using he, fun j hj => ?_⟩
    obtain ⟨h', he'⟩ := List.getElem?_eq_some_iff.mp (h2 j hj)
    simp [he']

/-! ### The display -/

/-- A cell after one cell is written: coordinates are taken modulo 32 and 64 (10_state R35). -/
theorem pixel_setPixel (d : Display) (r c r' c' : Nat) (b : Bool) :
    pixel (setPixel d r c b) r' c' = if r % 32 = r' % 32 ∧ c % 64 = c' % 64 then b else pixel d r' c' := by
  unfold pixel setPixel
  rw [Vector.getElem_set]
  by_cases hr : r % 32 = r' % 32
  · by_cases hc : c % 64 = c' % 64 <;> simp [hr, hc]
  · simp [hr]

/-- Two grids with the same cells are the same. -/
theorem display_ext {d e : Display} (h : ∀ r < 32, ∀ c < 64, pixel d r c = pixel e r c) : d = e := by
  ext r hr c hc
  have := h r hr c hc
  simpa [pixel, Nat.mod_eq_of_lt hr, Nat.mod_eq_of_lt hc] using this

/-- A cell after one pixel of the blit (44_display_random R202). -/
theorem pixel_blitPixel (x0 r : Nat) (b : Byte) (p : Display × Bool) (j r' c' : Nat) :
    pixel (blitPixel x0 r b p j).1 r' c' =
      if r % 32 = r' % 32 ∧ (x0 + j) % 64 = c' % 64 then (pixel p.1 r' c' ^^ b.getLsbD (7 - j)) else pixel p.1 r' c' := by
  simp only [blitPixel, pixel_setPixel]
  split
  · rename_i h
    have : pixel p.1 r (x0 + j) = pixel p.1 r' c' := by unfold pixel; simp [h.1, h.2]
    rw [this]
  · rfl

/-- The collision after one pixel of the blit: a set cell met a set sprite bit (44_display_random R202). -/
theorem collision_blitPixel (x0 r : Nat) (b : Byte) (p : Display × Bool) (j : Nat) :
    (blitPixel x0 r b p j).2 = (p.2 || (pixel p.1 r (x0 + j) && b.getLsbD (7 - j))) := by
  simp only [blitPixel]
  cases p.2 <;> cases pixel p.1 r (x0 + j) <;> cases b.getLsbD (7 - j) <;> rfl

/-! ### The timers -/

/-- A timer after k decrements stays at 0 (60_exceptions R283). -/
theorem toNat_decayed (t : Byte) (k : Nat) : (decayed t k).toNat = t.toNat - k := by
  have := t.isLt
  simp only [decayed, BitVec.toNat_ofNat]
  omega

/-! ### A tick -/

/-- What a fetch answers: the word at PC, or the range error (45_step_machine R233). -/
theorem fetchWord_cases (s : State) :
    (s.pc.toNat ≤ 0xFFE ∧ fetchWord s = .ok (memRead s.mem s.pc.toNat ++ memRead s.mem (s.pc.toNat + 1))) ∨
    (0xFFE < s.pc.toNat ∧ fetchWord s = .error (.outOfRangeAccess (.mem (max s.pc.toNat 4096)))) := by
  unfold fetchWord
  cases h : firstAbsent s.pc.toNat 2 with
  | none => exact .inl ⟨by have := (firstAbsent_none _ _).mp h; omega, rfl⟩
  | some a =>
    obtain ⟨_, h2, rfl⟩ := (firstAbsent_some _ _ a).mp h
    exact .inr ⟨by omega, rfl⟩

/-- An instruction was fetched only from a PC with two bytes of memory. -/
theorem pc_of_fetchInstr {s : State} {i : Instr} (h : fetchInstr s = .ok i) : s.pc.toNat ≤ 0xFFE := by
  rcases fetchWord_cases s with ⟨hp, _⟩ | ⟨_, hf⟩
  · exact hp
  · simp [fetchInstr, hf] at h

/-- A tick that answers a next state: its step did, and the timer pass followed (45_step_machine R231). -/
theorem tick_next {e : Nat} {s t : State} (h : tick e s = .next t) : ∃ u, coreStep s = .next u ∧ t = endTick e u := by
  unfold tick at h
  cases hu : coreStep s with
  | next u => rw [hu] at h; exact ⟨u, rfl, by simpa [afterStep] using h.symm⟩
  | fault r => rw [hu] at h; simp [afterStep] at h
  | refused r => rw [hu] at h; simp [afterStep] at h

/-- A step that answers a next state makes a tick that does (45_step_machine R231). -/
theorem step_of_coreStep {s u : State} (h : coreStep s = .next u) : step s = .next (endTick (nextElapsed s) u) := by
  unfold step tick; rw [h]; rfl

/-- A fetch depends on memory and PC only. -/
theorem fetchInstr_congr {s t : State} (hm : t.mem = s.mem) (hp : t.pc = s.pc) : fetchInstr t = fetchInstr s := by
  simp [fetchInstr, fetchWord, hm, hp]

/-- What the step of a tick does: fetch error, execution, or a wait (45_step_machine R232, R233, R236). -/
theorem coreStep_cases (s : State) :
    (s.pending = none ∧ ∃ e, fetchInstr s = .error e ∧ coreStep s = .next (s.raised e)) ∨
    (s.pending = none ∧ ∃ i, fetchInstr s = .ok i ∧ coreStep s = exec i s) ∨
    (∃ x, s.pending = some x ∧ coreStep s = waitStep x s) := by
  unfold coreStep idleStep
  cases hp : s.pending with
  | some x => exact .inr (.inr ⟨x, rfl, rfl⟩)
  | none =>
    rcases orRaise_cases (fetchInstr s) s (fun i => exec i s) with ⟨i, h, h'⟩ | ⟨e, h, h'⟩
    · exact .inr (.inl ⟨rfl, i, h, h'⟩)
    · exact .inl ⟨rfl, e, h, h'⟩

/-- What a pending LD Vx,K does in a tick (43_timer_key R187). -/
theorem waitStep_cases (x : RegIx) (s : State) :
    (∃ k, lowestKey s.keys = some k ∧
      waitStep x s = .next (((s.setV x (BitVec.ofNat 8 k)).setPending none).finish (s.pc + 2))) ∨
    (lowestKey s.keys = none ∧ waitStep x s = .next (s.finish s.pc)) := by
  unfold waitStep
  cases h : lowestKey s.keys with
  | some k => exact .inl ⟨k, rfl, rfl⟩
  | none => exact .inr ⟨rfl, rfl⟩

/-! ### The host's load -/

/-- A load goes through exactly for an image that fits, once, before the first tick; else it does not reach the CORE
(70_reset_and_hazards R305). -/
theorem loadProgram_cases (image : List Byte) (s : State) :
    ((s.loaded = false ∧ s.ticks = 0 ∧ image.length ≤ 3584) ∧
      loadProgram image s = some (s.setMem (writeBytes s.mem 0x200 image)).markLoaded) ∨
    ((s.loaded = true ∨ s.ticks ≠ 0 ∨ 3584 < image.length) ∧ loadProgram image s = none) := by
  have hm : mayLoad s = true ↔ s.loaded = false ∧ s.ticks = 0 := by simp [mayLoad]
  have hl : loadAddr + image.length ≤ memSize ↔ image.length ≤ 3584 := by simp only [loadAddr, memSize]; omega
  unfold loadProgram
  split
  · rename_i h
    rw [hm, hl] at h
    exact .inl ⟨⟨h.1.1, h.1.2, h.2⟩, rfl⟩
  · rename_i h
    rw [hm, hl] at h
    refine .inr ⟨?_, rfl⟩
    cases hs : s.loaded with
    | true => exact .inl rfl
    | false => exact .inr (by simp only [hs, true_and] at h; omega)

/-- A host action other than a load leaves memory and the fact of a load as they were (45_step_machine R240, R245, R246). -/
theorem hostAct_keeps_mem {a : HostAction} {s t : State} (h : hostAct a s = some t) (ha : ∀ image, a ≠ .load image) :
    t.mem = s.mem ∧ t.loaded = s.loaded := by
  cases a with
  | load image => exact absurd rfl (ha image)
  | key k b => cases h; exact ⟨rfl, rfl⟩
  | clearDirty => cases h; exact ⟨rfl, rfl⟩
  | elapsed l => cases h; exact ⟨rfl, rfl⟩

end Sys2Proof.Machine
end

