-- ==== Sys2Proof/Laws/Exec.lean ====
section
/-! SUPPORT. What the eight instructions with a check can answer, each in one lemma; every other meaning answers one next state by
unfolding. First, how a run of ticks begins. -/

namespace Sys2Proof.Machine

theorem run_of_next (M : Host.Core) (n : Nat) (s u : M.State) (h : M.step s = .next u) : M.run (n + 1) s = M.run n u := by
  simp only [Host.Core.run, h]

/-- A run of n + 1 ticks is one tick and then a run of n. -/
theorem run_succ {n : Nat} {s u : State} (h : step s = .next u) :
    Host.Core.run core (n + 1) s = Host.Core.run core n u := run_of_next core n s u h

/-- CALL pushed and jumped, or overflowed (40_control_flow R104). -/
theorem exec_callAddr_cases (nnn : Addr) (s : State) :
    (s.stack.length < 16 ∧
      exec (.callAddr nnn) s = .next ((s.setStack (s.stack ++ [s.pc + 2])).finish (zextAddr nnn))) ∨
    (16 ≤ s.stack.length ∧ exec (.callAddr nnn) s = .next (s.raised (.callStackOverflow s.pc))) := by
  show _ ∧ orRaise (push (s.pc + 2) s) s _ = _ ∨ _ ∧ orRaise (push (s.pc + 2) s) s _ = _
  rcases push_cases (s.pc + 2) s with ⟨h, h'⟩ | ⟨h, h'⟩
  · exact .inl ⟨h, by rw [h']; rfl⟩
  · exact .inr ⟨h, by rw [h']; rfl⟩

/-- RET popped and jumped, or found the stack empty (40_control_flow R101). -/
theorem exec_ret_cases (s : State) :
    (∃ l w, s.stack = l ++ [w] ∧ exec .ret s = .next ((s.setStack l).finish w)) ∨
    (s.stack = [] ∧ exec .ret s = .next (s.raised (.emptyStackReturn s.pc))) := by
  show (∃ l w, _ ∧ orRaise (pop s) s _ = _) ∨ _ ∧ orRaise (pop s) s _ = _
  rcases pop_cases s with ⟨l, w, h, h'⟩ | ⟨h, h'⟩
  · exact .inl ⟨l, w, h, by rw [h']; rfl⟩
  · exact .inr ⟨h, by rw [h']; rfl⟩

/-- SKP skipped on a key that exists, or raised (43_timer_key R184). -/
theorem exec_skpVx_cases (x : RegIx) (s : State) :
    (∃ h : (s.getV x).toNat < 16,
      exec (.skpVx x) s = .next (s.finish (if s.keys[(s.getV x).toNat] then s.pc + 4 else s.pc + 2))) ∨
    (15 < (s.getV x).toNat ∧ exec (.skpVx x) s = .next (s.raised (.outOfRangeAccess (.key (s.getV x))))) := by
  show (∃ _, orRaise (readKey s (s.getV x)) s _ = _) ∨ _ ∧ orRaise (readKey s (s.getV x)) s _ = _
  rcases readKey_cases s (s.getV x) with ⟨h, h'⟩ | ⟨h, h'⟩
  · exact .inl ⟨h, by rw [h']; rfl⟩
  · exact .inr ⟨h, by rw [h']; rfl⟩

/-- SKNP skipped on a key that exists, or raised (43_timer_key R185). -/
theorem exec_sknpVx_cases (x : RegIx) (s : State) :
    (∃ h : (s.getV x).toNat < 16,
      exec (.sknpVx x) s = .next (s.finish (if !s.keys[(s.getV x).toNat] then s.pc + 4 else s.pc + 2))) ∨
    (15 < (s.getV x).toNat ∧ exec (.sknpVx x) s = .next (s.raised (.outOfRangeAccess (.key (s.getV x))))) := by
  show (∃ _, orRaise (readKey s (s.getV x)) s _ = _) ∨ _ ∧ orRaise (readKey s (s.getV x)) s _ = _
  rcases readKey_cases s (s.getV x) with ⟨h, h'⟩ | ⟨h, h'⟩
  · exact .inl ⟨h, by rw [h']; rfl⟩
  · exact .inr ⟨h, by rw [h']; rfl⟩

/-- What DRW makes of its sprite (44_display_random R205). -/
def drawn (x y : RegIx) (n : Nibble) (s : State) : Display × Bool :=
  drawSprite (s.getV x) (s.getV y) (readBytes s.mem (blockAddr s) n.toNat) s.disp

/-- DRW drew, or its sprite passed 0xFFF (44_display_random R205). -/
theorem exec_drwVxVy_cases (x y : RegIx) (n : Nibble) (s : State) :
    ((n.toNat = 0 ∨ blockAddr s + n.toNat ≤ 4096) ∧
      exec (.drwVxVy x y n) s =
        .next (((s.setFrame (drawn x y n s).1 true).setFlag (drawn x y n s).2).finish (s.pc + 2))) ∨
    (0 < n.toNat ∧ 4096 < blockAddr s + n.toNat ∧
      exec (.drwVxVy x y n) s = .next (s.raised (.outOfRangeAccess (.mem (max (blockAddr s) 4096))))) := by
  show _ ∧ orRaise (loadBytes s.mem (blockAddr s) n.toNat) s _ = _ ∨
    _ ∧ _ ∧ orRaise (loadBytes s.mem (blockAddr s) n.toNat) s _ = _
  rcases loadBytes_cases s.mem (blockAddr s) n.toNat with ⟨h, h'⟩ | ⟨h, h2, h'⟩
  · exact .inl ⟨h, by rw [h']; rfl⟩
  · exact .inr ⟨h, h2, by rw [h']; rfl⟩

/-- LD B,Vx stored three digits, or passed 0xFFF (42_memory_index R166). -/
theorem exec_ldBVx_cases (x : RegIx) (s : State) :
    (blockAddr s + 3 ≤ 4096 ∧
      exec (.ldBVx x) s =
        .next ((s.setMem (writeBytes s.mem (blockAddr s) (bcdDigits (s.getV x)))).finish (s.pc + 2))) ∨
    (4096 < blockAddr s + 3 ∧
      exec (.ldBVx x) s = .next (s.raised (.outOfRangeAccess (.mem (max (blockAddr s) 4096))))) := by
  show _ ∧ orRaise (storeBytes s.mem (blockAddr s) (bcdDigits (s.getV x))) s _ = _ ∨
    _ ∧ orRaise (storeBytes s.mem (blockAddr s) (bcdDigits (s.getV x))) s _ = _
  have hl : (bcdDigits (s.getV x)).length = 3 := rfl
  rcases storeBytes_cases s.mem (blockAddr s) (bcdDigits (s.getV x)) with ⟨h, h'⟩ | ⟨_, h, h'⟩ <;> rw [hl] at h
  · exact .inl ⟨by omega, by rw [h']; rfl⟩
  · exact .inr ⟨h, by rw [h']; rfl⟩

@[simp] theorem length_regBlock (s : State) (x : RegIx) : (regBlock s x).length = x.toNat + 1 := by
  simp [regBlock]; omega

theorem getElem_regBlock (s : State) (x i : RegIx) (h : i.toNat < (regBlock s x).length) :
    (regBlock s x)[i.toNat] = s.getV i := by
  simp [regBlock, State.getV]

/-- LD [I],Vx stored V0..Vx, or passed 0xFFF (42_memory_index R167). -/
theorem exec_ldMemVx_cases (x : RegIx) (s : State) :
    (blockAddr s + (x.toNat + 1) ≤ 4096 ∧
      exec (.ldMemVx x) s = .next ((s.setMem (writeBytes s.mem (blockAddr s) (regBlock s x))).finish (s.pc + 2))) ∨
    (4096 < blockAddr s + (x.toNat + 1) ∧
      exec (.ldMemVx x) s = .next (s.raised (.outOfRangeAccess (.mem (max (blockAddr s) 4096))))) := by
  show _ ∧ orRaise (storeBytes s.mem (blockAddr s) (regBlock s x)) s _ = _ ∨
    _ ∧ orRaise (storeBytes s.mem (blockAddr s) (regBlock s x)) s _ = _
  have hl := length_regBlock s x
  rcases storeBytes_cases s.mem (blockAddr s) (regBlock s x) with ⟨h, h'⟩ | ⟨_, h, h'⟩ <;> rw [hl] at h
  · exact .inl ⟨by omega, by rw [h']; rfl⟩
  · exact .inr ⟨h, by rw [h']; rfl⟩

/-- LD Vx,[I] loaded V0..Vx, or passed 0xFFF (42_memory_index R168). -/
theorem exec_ldVxMem_cases (x : RegIx) (s : State) :
    (blockAddr s + (x.toNat + 1) ≤ 4096 ∧
      exec (.ldVxMem x) s =
        .next ((s.setRegs (loadRegs 0 (readBytes s.mem (blockAddr s) (x.toNat + 1)) s.v)).finish (s.pc + 2))) ∨
    (4096 < blockAddr s + (x.toNat + 1) ∧
      exec (.ldVxMem x) s = .next (s.raised (.outOfRangeAccess (.mem (max (blockAddr s) 4096))))) := by
  show _ ∧ orRaise (loadBytes s.mem (blockAddr s) (x.toNat + 1)) s _ = _ ∨
    _ ∧ orRaise (loadBytes s.mem (blockAddr s) (x.toNat + 1)) s _ = _
  rcases loadBytes_cases s.mem (blockAddr s) (x.toNat + 1) with ⟨h, h'⟩ | ⟨_, h, h'⟩
  · exact .inl ⟨by omega, by rw [h']; rfl⟩
  · exact .inr ⟨h, by rw [h']; rfl⟩

end Sys2Proof.Machine
end

