-- ==== Sys2Proof/Laws/PerInstr.lean ====
section
/-! SUPPORT. The family EncodeMatchesRow: the encoding of an instruction matches its own row of the decode table (30_encoding R76). -/

namespace Sys2Proof.Laws.EncodeMatchesRow

/-- The masked bits of the instruction's word are its row's match value (30_encoding R76). -/
def Statement (i : Instr) : Prop := i.row.covers (encode i) = true

theorem of_opNnn (op : Nibble) (nnn : Addr) : (opNnn op nnn &&& 0xF000 == opNnn op 0) = true := by
  rw [beq_iff_eq]
  have h : (0xF000 : Word) = opNnn (BitVec.allOnes 4) 0 := by decide
  rw [h]; unfold opNnn; rw [BitVec.and_append]; congr 1 <;> first | exact BitVec.and_allOnes | exact BitVec.and_zero

theorem of_opXKk (op : Nibble) (x : RegIx) (kk : Byte) : (opXKk op x kk &&& 0xF000 == opXKk op 0 0) = true := by
  rw [beq_iff_eq]
  have h : (0xF000 : Word) = opXKk (BitVec.allOnes 4) 0 0 := by decide
  rw [h]; unfold opXKk; rw [BitVec.and_append, BitVec.and_append]; congr 2 <;> first | exact BitVec.and_allOnes | exact BitVec.and_zero

theorem of_opXF (op : Nibble) (x : RegIx) (kk : Byte) : (opXKk op x kk &&& 0xF0FF == opXKk op 0 kk) = true := by
  rw [beq_iff_eq]
  have h : (0xF0FF : Word) = opXKk (BitVec.allOnes 4) 0 (BitVec.allOnes 8) := by decide
  rw [h]; unfold opXKk; rw [BitVec.and_append, BitVec.and_append]; congr 2 <;> first | exact BitVec.and_allOnes | exact BitVec.and_zero

theorem of_fourNibbles (op : Nibble) (x y : RegIx) (n : Nibble) :
    (fourNibbles op x y n &&& 0xF00F == fourNibbles op 0 0 n) = true := by
  rw [beq_iff_eq]
  have h : (0xF00F : Word) = fourNibbles (BitVec.allOnes 4) 0 0 (BitVec.allOnes 4) := by decide
  rw [h]; unfold fourNibbles; rw [BitVec.and_append, BitVec.and_append, BitVec.and_append]; congr 3 <;> first | exact BitVec.and_allOnes | exact BitVec.and_zero

theorem of_drw (op : Nibble) (x y : RegIx) (n : Nibble) :
    (fourNibbles op x y n &&& 0xF000 == fourNibbles op 0 0 0) = true := by
  rw [beq_iff_eq]
  have h : (0xF000 : Word) = fourNibbles (BitVec.allOnes 4) 0 0 0 := by decide
  rw [h]; unfold fourNibbles; rw [BitVec.and_append, BitVec.and_append, BitVec.and_append]; congr 3 <;> first | exact BitVec.and_allOnes | exact BitVec.and_zero

theorem cls : Statement (.cls) := by unfold Statement; decide
theorem ret : Statement (.ret) := by unfold Statement; decide
theorem jpAddr (nnn : Addr) : Statement (.jpAddr nnn) := of_opNnn _ nnn
theorem callAddr (nnn : Addr) : Statement (.callAddr nnn) := of_opNnn _ nnn
theorem seVxByte (x : RegIx) (kk : Byte) : Statement (.seVxByte x kk) := of_opXKk _ x kk
theorem sneVxByte (x : RegIx) (kk : Byte) : Statement (.sneVxByte x kk) := of_opXKk _ x kk
theorem seVxVy (x : RegIx) (y : RegIx) : Statement (.seVxVy x y) := of_fourNibbles _ x y _
theorem ldVxByte (x : RegIx) (kk : Byte) : Statement (.ldVxByte x kk) := of_opXKk _ x kk
theorem addVxByte (x : RegIx) (kk : Byte) : Statement (.addVxByte x kk) := of_opXKk _ x kk
theorem ldVxVy (x : RegIx) (y : RegIx) : Statement (.ldVxVy x y) := of_fourNibbles _ x y _
theorem orVxVy (x : RegIx) (y : RegIx) : Statement (.orVxVy x y) := of_fourNibbles _ x y _
theorem andVxVy (x : RegIx) (y : RegIx) : Statement (.andVxVy x y) := of_fourNibbles _ x y _
theorem xorVxVy (x : RegIx) (y : RegIx) : Statement (.xorVxVy x y) := of_fourNibbles _ x y _
theorem addVxVy (x : RegIx) (y : RegIx) : Statement (.addVxVy x y) := of_fourNibbles _ x y _
theorem subVxVy (x : RegIx) (y : RegIx) : Statement (.subVxVy x y) := of_fourNibbles _ x y _
theorem shrVx (x : RegIx) (y : RegIx) : Statement (.shrVx x y) := of_fourNibbles _ x y _
theorem subnVxVy (x : RegIx) (y : RegIx) : Statement (.subnVxVy x y) := of_fourNibbles _ x y _
theorem shlVx (x : RegIx) (y : RegIx) : Statement (.shlVx x y) := of_fourNibbles _ x y _
theorem sneVxVy (x : RegIx) (y : RegIx) : Statement (.sneVxVy x y) := of_fourNibbles _ x y _
theorem ldIAddr (nnn : Addr) : Statement (.ldIAddr nnn) := of_opNnn _ nnn
theorem jpV0Addr (nnn : Addr) : Statement (.jpV0Addr nnn) := of_opNnn _ nnn
theorem rndVxByte (x : RegIx) (kk : Byte) : Statement (.rndVxByte x kk) := of_opXKk _ x kk
theorem drwVxVy (x : RegIx) (y : RegIx) (n : Nibble) : Statement (.drwVxVy x y n) := of_drw _ x y n
theorem skpVx (x : RegIx) : Statement (.skpVx x) := of_opXF _ x _
theorem sknpVx (x : RegIx) : Statement (.sknpVx x) := of_opXF _ x _
theorem ldVxDt (x : RegIx) : Statement (.ldVxDt x) := of_opXF _ x _
theorem ldVxK (x : RegIx) : Statement (.ldVxK x) := of_opXF _ x _
theorem ldDtVx (x : RegIx) : Statement (.ldDtVx x) := of_opXF _ x _
theorem ldStVx (x : RegIx) : Statement (.ldStVx x) := of_opXF _ x _
theorem addIVx (x : RegIx) : Statement (.addIVx x) := of_opXF _ x _
theorem ldFVx (x : RegIx) : Statement (.ldFVx x) := of_opXF _ x _
theorem ldBVx (x : RegIx) : Statement (.ldBVx x) := of_opXF _ x _
theorem ldMemVx (x : RegIx) : Statement (.ldMemVx x) := of_opXF _ x _
theorem ldVxMem (x : RegIx) : Statement (.ldVxMem x) := of_opXF _ x _

end Sys2Proof.Laws.EncodeMatchesRow
end

