-- ==== Sys2Proof/Tests/Slice0.lean ====
section
/-! SUPPORT. Tests: every expected result is from spec/ (95_test_vectors, by the vector's name, or the rule cited), none from the
model. The second part has a witness for the hypotheses of every statement that has some. -/

namespace Sys2Proof.Tests

open Sys2Proof Sys2Proof.Machine

/-! ### Decoding: words written out bit by bit from the formats and the match column of 30_encoding R73, R76 -/

/-- Families 0, 1, 2, 3, 4, 5. -/
theorem test_decode_families_0_to_5 :
    decode 0b0000000011100000 = .ok .cls ∧ decode 0b0000000011101110 = .ok .ret ∧
    decode 0b0001101010111100 = .ok (.jpAddr 0xABC) ∧ decode 0b0010101010111100 = .ok (.callAddr 0xABC) ∧
    decode 0b0011010110000001 = .ok (.seVxByte 5 0x81) ∧ decode 0b0100010110000001 = .ok (.sneVxByte 5 0x81) ∧
    decode 0b0101011110000000 = .ok (.seVxVy 7 8) := by decide

/-- Families 6, 7, 9, A, B, C, D. -/
theorem test_decode_families_6_to_D :
    decode 0b0110101000000010 = .ok (.ldVxByte 0xA 0x02) ∧ decode 0b0111101010000001 = .ok (.addVxByte 0xA 0x81) ∧
    decode 0b1001011110000000 = .ok (.sneVxVy 7 8) ∧ decode 0b1010100000000001 = .ok (.ldIAddr 0x801) ∧
    decode 0b1011000100100011 = .ok (.jpV0Addr 0x123) ∧ decode 0b1100001100001111 = .ok (.rndVxByte 3 0x0F) ∧
    decode 0b1101000100100101 = .ok (.drwVxVy 1 2 5) := by decide

/-- Family 8. -/
theorem test_decode_family_8 :
    decode 0b1000101010110000 = .ok (.ldVxVy 0xA 0xB) ∧ decode 0b1000101010110001 = .ok (.orVxVy 0xA 0xB) ∧
    decode 0b1000101010110010 = .ok (.andVxVy 0xA 0xB) ∧ decode 0b1000101010110011 = .ok (.xorVxVy 0xA 0xB) ∧
    decode 0b1000101010110100 = .ok (.addVxVy 0xA 0xB) ∧ decode 0b1000101010110101 = .ok (.subVxVy 0xA 0xB) ∧
    decode 0b1000101010110110 = .ok (.shrVx 0xA 0xB) ∧ decode 0b1000101010110111 = .ok (.subnVxVy 0xA 0xB) ∧
    decode 0b1000101010111110 = .ok (.shlVx 0xA 0xB) := by decide

/-- Families E and F. -/
theorem test_decode_families_E_F :
    decode 0b1110001110011110 = .ok (.skpVx 3) ∧ decode 0b1110001110100001 = .ok (.sknpVx 3) ∧
    decode 0b1111011100000111 = .ok (.ldVxDt 7) ∧ decode 0b1111011100001010 = .ok (.ldVxK 7) ∧
    decode 0b1111011100010101 = .ok (.ldDtVx 7) ∧ decode 0b1111011100011000 = .ok (.ldStVx 7) ∧
    decode 0b1111011100011110 = .ok (.addIVx 7) ∧ decode 0b1111011100101001 = .ok (.ldFVx 7) ∧
    decode 0b1111011100110011 = .ok (.ldBVx 7) ∧ decode 0b1111011101010101 = .ok (.ldMemVx 7) ∧
    decode 0b1111011101100101 = .ok (.ldVxMem 7) := by decide

/-- Vectors U1 to U7: unsupported words, each refused with its own word. -/
theorem test_unsupported_words_0_to_9 :
    decode 0x0000 = .error (.unsupportedOpcode 0x0000) ∧ decode 0x00E1 = .error (.unsupportedOpcode 0x00E1) ∧
    decode 0x0FFF = .error (.unsupportedOpcode 0x0FFF) ∧ decode 0x5121 = .error (.unsupportedOpcode 0x5121) ∧
    decode 0x8008 = .error (.unsupportedOpcode 0x8008) ∧ decode 0x800F = .error (.unsupportedOpcode 0x800F) ∧
    decode 0x9121 = .error (.unsupportedOpcode 0x9121) := by decide

/-- Vectors U8 to U12. -/
theorem test_unsupported_words_E_F :
    decode 0xE000 = .error (.unsupportedOpcode 0xE000) ∧ decode 0xE09F = .error (.unsupportedOpcode 0xE09F) ∧
    decode 0xF000 = .error (.unsupportedOpcode 0xF000) ∧ decode 0xF0FF = .error (.unsupportedOpcode 0xF0FF) ∧
    decode 0xF01F = .error (.unsupportedOpcode 0xF01F) := by decide

/-- Bytes are read big-endian and the rest is left (20_memory R53). -/
theorem test_decodeBytes :
    decodeBytes [0x6A, 0x02, 0x77] = .ok (.ldVxByte 0xA 0x02, [0x77]) ∧ decodeBytes [0x6A] = .error .truncated := by decide

/-- The table's numbering: bit 0 is the low bit of the word. -/
theorem test_decodeTableWord :
    decodeTableWord 16 0xD125 = some (.drwVxVy 1 2 5) ∧ decodeTableWord 16 0xF01F = none := by decide

/-! ### Well-formedness: one ill-formed word for each check, which refuses it and which alone does -/

theorem test_wellFormed_family0 : family0Ok 0x00E1 = false ∧ wellFormed 0x00E1 = false ∧ wellFormed 0x00E0 = true := by decide
theorem test_wellFormed_family5 : family5Ok 0x5121 = false ∧ wellFormed 0x5121 = false ∧ wellFormed 0x5120 = true := by decide
theorem test_wellFormed_family8 : family8Ok 0x8008 = false ∧ wellFormed 0x800F = false ∧ wellFormed 0x800E = true := by decide
theorem test_wellFormed_family9 : family9Ok 0x9121 = false ∧ wellFormed 0x9121 = false ∧ wellFormed 0x9120 = true := by decide
theorem test_wellFormed_familyE : familyEOk 0xE09F = false ∧ wellFormed 0xE09F = false ∧ wellFormed 0xE09E = true := by decide
theorem test_wellFormed_familyF : familyFOk 0xF01F = false ∧ wellFormed 0xF01F = false ∧ wellFormed 0xF01E = true := by decide
theorem test_inTable : inTable 0xF01F = false ∧ inTable 0x8008 = false ∧ inTable 0xF01E = true := by decide

/-! ### Single ticks -/

/-- The start state of 95_test_vectors: reset with both timers 0 and `elapsed` 0. -/
def base : State := { State.reset with dt := 0, st := 0, elapsedIn := [0] }

/-- A word at PC. -/
def withWord (w : Word) (s : State) : State := { s with mem := writeBytes s.mem s.pc.toNat (wordBytes w) }

/-- The keys of a list pressed, and no other. -/
def press (l : List (Fin 16)) (s : State) : State := l.foldl (fun t k => setKey k true t) s

/-- What one tick leaves, seen through f. -/
def afterTick {α : Type} (f : State → α) (s : State) : Option α :=
  match step s with
  | .next t => some (f t)
  | _ => none

/-- How a tick ended: outcome, PC, halted. -/
def ending (t : State) : TickOutcome × Word × Bool := (t.outcome, t.pc, t.halted)

/-- Two registers after a tick, and that it reported Ok and went on to the next word. -/
def twoRegs (a b : RegIx) (t : State) : Byte × Byte × Bool := (t.getV a, t.getV b, t.outcome == .ok && t.pc == 0x202)

/-- J1, J2. -/
theorem test_jp : afterTick ending (withWord 0x1200 base) = some (.ok, 0x200, true) ∧
    afterTick ending (withWord 0x1208 base) = some (.ok, 0x208, false) := by decide

/-- J6, J7. -/
theorem test_jp_v0 : afterTick ending (withWord 0xBFFF (base.setV 0 0xFF)) = some (.ok, 0x10FE, false) ∧
    afterTick ending (withWord 0xB200 base) = some (.ok, 0x200, false) := by decide

/-- J8, and J11 at its last tick. -/
theorem test_call : afterTick (fun t => (t.stack, t.pc)) (withWord 0x2300 base) = some ([0x202], 0x300) ∧
    afterTick ending (withWord 0x2200 (base.setStack (List.replicate 16 0x202))) =
      some (.error (.callStackOverflow 0x200), 0x200, true) := by decide

/-- J9, J10. -/
theorem test_ret : afterTick (fun t => (t.stack, t.pc)) (withWord 0x00EE ({ base with pc := 0x300 }.setStack [0x204])) =
      some ([], 0x204) ∧
    afterTick ending (withWord 0x00EE base) = some (.error (.emptyStackReturn 0x200), 0x200, true) := by decide

/-- S1, S2. -/
theorem test_se_byte : afterTick State.pc (withWord 0x3310 (base.setV 3 0x10)) = some 0x204 ∧
    afterTick State.pc (withWord 0x3310 (base.setV 3 0x11)) = some 0x202 := by decide

/-- S3, S4. -/
theorem test_sne_byte : afterTick State.pc (withWord 0x4310 (base.setV 3 0x10)) = some 0x202 ∧
    afterTick State.pc (withWord 0x4310 base) = some 0x204 := by decide

/-- S5, and registers that differ. -/
theorem test_se_reg : afterTick State.pc (withWord 0x5120 ((base.setV 1 7).setV 2 7)) = some 0x204 ∧
    afterTick State.pc (withWord 0x5120 ((base.setV 1 7).setV 2 8)) = some 0x202 := by decide

/-- S7, S8. -/
theorem test_sne_reg : afterTick State.pc (withWord 0x9120 ((base.setV 1 7).setV 2 8)) = some 0x204 ∧
    afterTick State.pc (withWord 0x9120 ((base.setV 1 7).setV 2 7)) = some 0x202 := by decide

/-- W9, A1. -/
theorem test_ld_byte : afterTick (twoRegs 0xA 0xF) (withWord 0x6A02 base) = some (0x02, 0, true) := by decide

/-- A2, A3. -/
theorem test_add_byte : afterTick (twoRegs 2 0xF) (withWord 0x7220 ((base.setV 2 0xF0).setV 0xF 0x55)) = some (0x10, 0x55, true) ∧
    afterTick (twoRegs 0xF 0) (withWord 0x7FFF (base.setV 0xF 1)) = some (0, 0, true) := by decide

/-- A4. -/
theorem test_ld_reg : afterTick (twoRegs 1 5) (withWord 0x8150 (base.setV 5 0x33)) = some (0x33, 0x33, true) := by decide

/-- A5. -/
theorem test_or : afterTick (twoRegs 1 0xF) (withWord 0x8121 (((base.setV 1 0x0F).setV 2 0xF0).setV 0xF 9)) =
    some (0xFF, 9, true) := by decide

/-- A6. -/
theorem test_and : afterTick (twoRegs 1 2) (withWord 0x8122 ((base.setV 1 0x3C).setV 2 0x0F)) = some (0x0C, 0x0F, true) := by decide

/-- A7. -/
theorem test_xor : afterTick (twoRegs 1 2) (withWord 0x8123 ((base.setV 1 0xFF).setV 2 0x0F)) = some (0xF0, 0x0F, true) := by decide

/-- W2, A10. -/
theorem test_add : afterTick (twoRegs 1 0xF) (withWord 0x8124 ((base.setV 1 0xC8).setV 2 0x64)) = some (0x2C, 1, true) ∧
    afterTick (twoRegs 0xF 1) (withWord 0x8F14 ((base.setV 0xF 0xFF).setV 1 1)) = some (1, 1, true) := by decide

/-- W3: a borrow, and equal operands. -/
theorem test_sub : afterTick (twoRegs 1 0xF) (withWord 0x8125 ((base.setV 1 0x05).setV 2 0x07)) = some (0xFE, 0, true) ∧
    afterTick (twoRegs 1 0xF) (withWord 0x8125 ((base.setV 1 0x42).setV 2 0x42)) = some (0, 1, true) := by decide

/-- W4, A19. -/
theorem test_shr : afterTick (twoRegs 1 0xF) (withWord 0x8126 (base.setV 1 0xFF)) = some (0x7F, 1, true) ∧
    afterTick (twoRegs 0xF 0) (withWord 0x8F06 (base.setV 0xF 3)) = some (1, 0, true) := by decide

/-- A13, A16. -/
theorem test_subn : afterTick (twoRegs 1 0xF) (withWord 0x8127 ((base.setV 1 0x05).setV 2 0x07)) = some (0x02, 1, true) ∧
    afterTick (twoRegs 0xF 1) (withWord 0x8F17 ((base.setV 0xF 5).setV 1 3)) = some (0, 3, true) := by decide

/-- A17, A18. -/
theorem test_shl : afterTick (twoRegs 1 0xF) (withWord 0x810E (base.setV 1 0x81)) = some (0x02, 1, true) ∧
    afterTick (twoRegs 1 0xF) (withWord 0x812E ((base.setV 1 0x40).setV 2 0xFF)) = some (0x80, 0, true) := by decide

/-- M1. -/
theorem test_ld_i : afterTick State.index (withWord 0xA2F0 base) = some 0x02F0 := by decide

/-- M2, M3. -/
theorem test_add_i :
    afterTick (fun t => (t.index, t.getV 0xF)) (withWord 0xF31E (((base.setIndex 0xFFF).setV 3 2).setV 0xF 7)) = some (0x1001, 7) ∧
    afterTick State.index (withWord 0xF01E ((base.setIndex 0xFFFF).setV 0 2)) = some 1 := by decide

/-- M4, M5. -/
theorem test_ld_f : afterTick State.index (withWord 0xF429 (base.setV 4 0x0A)) = some 0x32 ∧
    afterTick State.index (withWord 0xFF29 (base.setV 0xF 0xFF)) = some 0x4FB := by decide

/-- M15, M17. -/
theorem test_bcd :
    afterTick (fun t => readBytes t.mem 0x300 3) (withWord 0xF133 ((base.setV 1 0x9C).setIndex 0x300)) = some [1, 5, 6] ∧
    afterTick ending (withWord 0xF033 (base.setIndex 0xFFE)) =
      some (.error (.outOfRangeAccess (.mem 0x1000)), 0x200, true) := by decide

/-- M10, M9. -/
theorem test_store_regs :
    afterTick (fun t => (readBytes t.mem 0xFFE 2, t.index)) (withWord 0xF155 (((base.setV 0 7).setV 1 9).setIndex 0xFFE)) =
      some ([7, 9], 0xFFE) ∧
    afterTick (fun t => (ending t, readBytes t.mem 0xFFE 2)) (withWord 0xF255 ((base.setV 0 7).setIndex 0xFFE)) =
      some ((.error (.outOfRangeAccess (.mem 0x1000)), 0x200, true), [0, 0]) := by decide

/-- M7, M13. -/
theorem test_load_regs :
    afterTick (fun t => ([t.getV 0, t.getV 1, t.getV 2, t.getV 3], t.index))
      (withWord 0xF265 { base with index := 0x400, mem := [(0x400, 1), (0x401, 2), (0x402, 3), (0x403, 4)] }) =
        some ([1, 2, 3, 0], 0x400) ∧
    afterTick ending (withWord 0xF065 (base.setIndex 0x1001)) =
      some (.error (.outOfRangeAccess (.mem 0x1001)), 0x200, true) := by decide

/-- T1. -/
theorem test_ld_dt_to_reg : afterTick (twoRegs 5 0) (withWord 0xF507 (base.setDt 0x3C)) = some (0x3C, 0, true) := by decide

/-- T2, and tick 2 of T4: the value written is decayed by the same tick. -/
theorem test_ld_reg_to_dt : afterTick State.dt (withWord 0xF515 (base.setV 5 0x3C)) = some 0x3C ∧
    afterTick (fun t => (t.dt, t.acc)) (withWord 0xFF15 { base.setV 0xF 0x3C with elapsedIn := [16667] }) = some (0x3B, 20) := by
  decide

/-- T3. -/
theorem test_ld_reg_to_st : afterTick State.st (withWord 0xF518 (base.setV 5 0x10)) = some 0x10 := by decide

/-- T5, T8. -/
theorem test_timer_pass :
    afterTick (fun t => (t.dt, t.st, t.acc)) (withWord 0x1200 { base with dt := 10, st := 1, elapsedIn := [16666] }) =
      some (10, 1, 999960) ∧
    afterTick (fun t => (t.dt, t.st, t.acc)) (withWord 0x1200 { base with dt := 9, st := 0, acc := 999980, elapsedIn := [50001] }) =
      some (5, 0, 40) := by decide

/-- T10, T14. -/
theorem test_skp : afterTick State.pc (withWord 0xE29E (press [5] (base.setV 2 5))) = some 0x204 ∧
    afterTick ending (withWord 0xE09E (base.setV 0 0x10)) =
      some (.error (.outOfRangeAccess (.key 0x10)), 0x200, true) := by decide

/-- T12, T13. -/
theorem test_sknp : afterTick State.pc (withWord 0xE2A1 (base.setV 2 5)) = some 0x204 ∧
    afterTick State.pc (withWord 0xE2A1 (press [5] (base.setV 2 5))) = some 0x202 := by decide

/-- T15 at its first tick, T16. -/
theorem test_key_wait :
    afterTick (fun t => (t.pending, t.pc, t.getV 3)) (withWord 0xF30A (press [0xC] base)) = some (some 3, 0x200, 0) ∧
    afterTick (fun t => (t.pending, t.pc, t.getV 0)) (press [9, 7] (base.setPending (some 0))) = some (none, 0x202, 7) := by decide

/-- D2: both coordinates wrap. -/
theorem test_drw_wraps :
    (drawSprite 62 31 [0x81] Display.blank).2 = false ∧
    [(31, 62), (31, 5), (31, 63), (0, 62)].map (fun p => pixel (drawSprite 62 31 [0x81] Display.blank).1 p.1 p.2) =
      [true, true, false, false] := by decide

/-- D7, D9. -/
theorem test_drw :
    afterTick (fun t => (pixel t.disp 3 3, pixel t.disp 0 0, t.getV 0xF, t.dirty, t.pc))
      (withWord 0xDFF1 { base.setV 0xF 3 with index := 0x300, mem := [(0x300, 0x80)] }) = some (true, false, 0, true, 0x202) ∧
    afterTick (fun t => (ending t, t.dirty)) (withWord 0xD002 (base.setIndex 0xFFF)) =
      some ((.error (.outOfRangeAccess (.mem 0x1000)), 0x200, true), false) := by decide

/-- R3: the mask 0 hides the draw, whatever it is. -/
theorem test_rnd : afterTick (fun t => (t.pc, t.draws)) (withWord 0xC100 (base.setV 1 0x77)) = some (0x202, 1) := by decide

/-- D10, D11: in what both values of CLS_CLEARS agree. -/
theorem test_cls : afterTick ending (withWord 0x00E0 base) = some (.ok, 0x202, false) := by decide

/-- F1. -/
theorem test_fetch_past_memory : afterTick ending { base with pc := 0xFFF } =
    some (.error (.outOfRangeAccess (.mem 0x1000)), 0xFFF, true) := by decide

/-- F2, J4. -/
theorem test_fetch_edges :
    afterTick (fun t => (t.getV 0xA, t.pc)) (withWord 0x6A02 { base with pc := 0x201 }) = some (2, 0x203) ∧
    afterTick ending (withWord 0x1FFE { base with pc := 0xFFE }) = some (.ok, 0xFFE, true) := by decide

/-- U1 as a tick. -/
theorem test_unsupported_tick : afterTick ending base = some (.error (.unsupportedOpcode 0x0000), 0x200, true) := by decide

/-- The first instruction after reset, placed as the host places it (W9). -/
theorem test_withFetchWord :
    afterTick (twoRegs 0xA 0xF) (State.reset.withFetchWord 16 0x6A02) = some (0x02, 0, true) := by decide

/-- A program is loaded big-endian as the file has it, at 0x200, once, before the first tick only (70_reset_and_hazards R305). -/
theorem test_loadProgram :
    (loadProgram [0x6A, 0x02] base).map (fun s => readBytes s.mem 0x1FF 4) = some [0, 0x6A, 0x02, 0] ∧
    loadProgram [0x6A, 0x02] { base with ticks := 1 } = none ∧ (loadProgram [1] base).bind (loadProgram [2]) = none := by decide

/-! ### Witnesses: the hypotheses of the statements are met, each clause at the edge of its range

A name says which statement the witness is for. -/

theorem witness_EncodeOfDecode : decode 0xF733 = .ok (.ldBVx 7) := by decide

theorem witness_DecodeFollowsTable :
    inTable 0xF065 = true ∧ decode 0xF065 = .ok (.ldVxMem 0) ∧ inTable 0xF066 = false := by decide

theorem witness_MalformedSubcasesUnsupported :
    (0x5FF0#16).toNat / 4096 = 0x5 ∧ (0x5001#16).toNat % 16 ≠ 0 ∧ (0x8007#16).toNat / 4096 = 0x8 ∧
    (0x8007#16).toNat % 16 ∉ [0x8, 0x9, 0xA, 0xB, 0xC, 0xD, 0xF] ∧ (0x8008#16).toNat % 16 ∈ [0x8, 0x9, 0xA, 0xB, 0xC, 0xD, 0xF] ∧
    (0xE09E#16).toNat / 4096 = 0xE ∧ (0xE09D#16).toNat % 256 ∉ [0x9E, 0xA1] ∧ (0xF065#16).toNat / 4096 = 0xF := by decide

theorem witness_SupportedWordsExactly :
    (0x00EE#16).toNat / 4096 = 0x0 ∧ (0x9FF0#16).toNat / 4096 = 0x9 ∧
    (0x1000#16).toNat / 4096 ∉ [0x0, 0x5, 0x8, 0x9, 0xE, 0xF] ∧ (0xDFFF#16).toNat / 4096 ∉ [0x0, 0x5, 0x8, 0x9, 0xE, 0xF] := by
  decide

/-- The last PC a fetch is possible from, with a word that decodes there and with one that does not, and the first beyond it. -/
theorem witness_IdleStepFetchesDecodesExecutes :
    (∃ s : State, s.pending = none ∧ s.pc.toNat = 0xFFE ∧ wordAtPc s = 0x1FFE ∧ decode 0x1FFE = .ok (.jpAddr 0xFFE)) ∧
    (∃ s : State, s.pending = none ∧ s.pc.toNat = 0xFFE ∧ wordAtPc s = 0 ∧ decode 0 = .error (.unsupportedOpcode 0)) ∧
    ∃ s : State, s.pending = none ∧ s.pc.toNat = 0xFFF :=
  ⟨⟨withWord 0x1FFE { base with pc := 0xFFE }, by decide⟩, ⟨{ base with pc := 0xFFE }, by decide⟩, ⟨{ base with pc := 0xFFF }, by decide⟩⟩

theorem witness_StepRunsDecodedInstruction :
    ∃ s t : State, s.pending = none ∧ s.pc.toNat = 0xFFE ∧
      decode (memRead s.mem s.pc.toNat ++ memRead s.mem (s.pc.toNat + 1)) = .ok (.jpAddr 0xFFE) ∧
      exec (.jpAddr 0xFFE) s = .next t :=
  ⟨withWord 0x1FFE { base with pc := 0xFFE }, _, rfl, rfl, by decide, rfl⟩

theorem no_key_down (k : Nat) : ¬keyDown base k := by
  intro h
  have := List.mem_of_getElem? h
  simp [base, State.reset] at this

/-- Both clauses: a key is pressed (the last one), and none is. -/
theorem witness_WaitingStepReevaluates :
    (∃ s : State, s.pending = some 3 ∧ ∃ k, keyDown s k) ∧ ∃ s : State, s.pending = some 3 ∧ ¬∃ k, keyDown s k :=
  ⟨⟨press [15] (base.setPending (some 3)), rfl, 15, by unfold keyDown; decide⟩,
    ⟨base.setPending (some 3), rfl, fun ⟨k, h⟩ => no_key_down k h⟩⟩

theorem witness_KeyWaitTakesLowestKey :
    ∃ s : State, s.pending = some 0 ∧ keyDown s 7 ∧ ∀ j < 7, ¬keyDown s j :=
  ⟨press [9, 7] (base.setPending (some 0)), rfl, by unfold keyDown; decide, by unfold keyDown; decide⟩

theorem witness_KeyWaitHoldsWithoutKey : ∃ s : State, s.pending = some 3 ∧ ∀ k, ¬keyDown s k :=
  ⟨base.setPending (some 3), rfl, no_key_down⟩

/-- A tick in each of the two states, and an Idle one that becomes Waiting. -/
theorem witness_TwoStatesOnly :
    (∃ s t : State, s.pending = none ∧ step s = .next t ∧ fetchInstr s = .ok (.ldVxK 3)) ∧
    (∃ s t : State, s.pending = some 3 ∧ step s = .next t ∧ ∃ k, keyDown s k) ∧
    ∃ s t : State, s.pending = some 3 ∧ step s = .next t ∧ ¬∃ k, keyDown s k :=
  ⟨⟨withWord 0xF30A base, _, rfl, rfl, by decide⟩, ⟨press [15] (base.setPending (some 3)), _, rfl, rfl, 15, by unfold keyDown; decide⟩,
    ⟨base.setPending (some 3), _, rfl, rfl, fun ⟨k, h⟩ => no_key_down k h⟩⟩

/-- An Idle tick that ends with Ok and one that ends with an error. -/
theorem witness_PcWritesOfATick :
    (∃ s t : State, s.pending = none ∧ step s = .next t ∧ t.outcome = .ok) ∧
    ∃ s t : State, s.pending = none ∧ step s = .next t ∧ t.outcome ≠ .ok :=
  ⟨⟨withWord 0x1FFF base, _, rfl, rfl, by decide⟩, ⟨base, _, rfl, rfl, by decide⟩⟩

/-- One microsecond short of an interval needs no turn of the loop; an interval needs one. -/
theorem witness_TimerPassIsTheLoop :
    ({ base with acc := 999939 }.acc + 60 * 1 < (0 + 1) * 1000000) ∧
    ({ base with acc := 999940 }.acc + 60 * 1 < (1 + 1) * 1000000) := by decide

theorem witness_TimersFloorSeparately : base.dt = 0 ∧ base.st = 0 := by decide

theorem witness_TimerPassSplitsFreely : { base with acc := 999999 }.acc < 1000000 := by decide

theorem witness_TimerPassOnEveryTick :
    (∃ s t : State, step s = .next t ∧ s.pending = none ∧ fetchInstr s = .ok (.ldDtVx 0xF)) ∧
    (∃ s t : State, step s = .next t ∧ s.pending = none ∧ fetchInstr s = .ok (.ldStVx 5)) ∧
    ∃ s t : State, step s = .next t ∧ ∀ x, ¬(s.pending = none ∧ fetchInstr s = .ok (.ldDtVx x)) ∧
      ¬(s.pending = none ∧ fetchInstr s = .ok (.ldStVx x)) :=
  ⟨⟨withWord 0xFF15 base, _, rfl, rfl, by decide⟩, ⟨withWord 0xF518 base, _, rfl, rfl, by decide⟩,
    ⟨base.setPending (some 3), _, rfl, fun x => ⟨by simp [State.setPending], by simp [State.setPending]⟩⟩⟩

/-- An instruction that raises; a fetch beyond memory; an unsupported word at the last PC a fetch is possible from. -/
theorem witness_ErrorLeavesPriorState :
    (∃ s t : State, exec .ret s = .next t ∧ t.outcome = .error (.emptyStackReturn s.pc)) ∧
    (∃ s : State, s.pending = none ∧ s.pc.toNat = 0xFFF) ∧
    ∃ s : State, s.pending = none ∧ s.pc.toNat = 0xFFE ∧ wordAtPc s = (0#16).toNat ∧ decode 0 = .error (.unsupportedOpcode 0) :=
  ⟨⟨base, _, rfl, rfl⟩, ⟨{ base with pc := 0xFFF }, by decide⟩, ⟨{ base with pc := 0xFFE }, by decide⟩⟩

/-- Each error of an instruction at the edge of its range, and each of the six instructions just inside it. -/
theorem witness_ErrorCausesExactly :
    errorOf (.callAddr 0) (base.setStack (List.replicate 16 0)) = some (.callStackOverflow 0x200) ∧
    errorOf (.callAddr 0) (base.setStack (List.replicate 15 0)) = none ∧
    errorOf .ret base = some (.emptyStackReturn 0x200) ∧ errorOf .ret (base.setStack [0]) = none ∧
    errorOf (.drwVxVy 0 0 15) (base.setIndex 0xFF2) = some (.outOfRangeAccess (.mem 0x1000)) ∧
    errorOf (.drwVxVy 0 0 15) (base.setIndex 0xFF1) = none ∧ errorOf (.drwVxVy 0 0 0) (base.setIndex 0xFFFF) = none ∧
    errorOf (.ldBVx 0) (base.setIndex 0xFFE) = some (.outOfRangeAccess (.mem 0x1000)) ∧
    errorOf (.ldBVx 0) (base.setIndex 0xFFD) = none ∧
    errorOf (.ldMemVx 1) (base.setIndex 0xFFF) = some (.outOfRangeAccess (.mem 0x1000)) ∧
    errorOf (.ldVxMem 1) (base.setIndex 0xFFE) = none ∧
    errorOf (.skpVx 0) (base.setV 0 16) = some (.outOfRangeAccess (.key 16)) ∧ errorOf (.skpVx 0) (base.setV 0 15) = none := by
  decide

/-- F4: a tick that reported an error. -/
theorem witness_ErrorRepeatsOnNextTick :
    ∃ s t : State, step s = .next t ∧ t.outcome = .error (.emptyStackReturn 0x200) :=
  ⟨withWord 0x00EE base, _, rfl, by decide⟩

theorem witness_HaltedNeitherClearedNorRead : ∃ s t : State, step s = .next t ∧ s.halted = true :=
  ⟨withWord 0x1200 { base with halted := true }, _, rfl, rfl⟩

/-- Both cases of each comparison. -/
theorem witness_SkipsAndJumps :
    (base.setV 3 0x10).getV 3 = 0x10 ∧ (base.setV 3 0x11).getV 3 ≠ 0x10 ∧ (0x200#12).toNat = base.pc.toNat ∧
    (0x208#12).toNat ≠ base.pc.toNat := by decide

/-- 15, 16, one and no return addresses. -/
theorem witness_StackWrittenByCallAndRet :
    (base.setStack (List.replicate 15 0x202)).stack.length < 16 ∧ (base.setStack (List.replicate 16 0x202)).stack.length = 16 ∧
    (base.setStack [0x202]).stack = [] ++ [0x202] ∧ base.stack = [] ∧ (∃ t, exec .cls base = .next t) :=
  ⟨by decide, by decide, rfl, rfl, _, rfl⟩

theorem witness_CallThenRetResumes :
    ∃ s t u : State, exec (.callAddr 0x300) s = .next t ∧ t.outcome = .ok ∧ u.stack = t.stack ∧ s.stack.length = 15 :=
  ⟨base.setStack (List.replicate 15 0x202), _, _, rfl, rfl, rfl, rfl⟩

/-- x other than 0xF, a register other than x and VF, and x = 0xF, in the arithmetic statements. -/
theorem witness_ArithmeticStatements :
    (0xE#4) ≠ 0xF ∧ (0xD#4) ≠ 0xE ∧ (0xD#4) ≠ 0xF ∧
    (base.setV 1 0xFF).getV 1 = 0xFF ∧ ((base.setV 1 0xFF).getV 1).toNat + (base.getV 2).toNat = 255 := by decide

theorem witness_FlagWritersOnly : ∃ t, exec (.ldVxByte 0xF 5) base = .next t ∧ t.getV 0xF ≠ base.getV 0xF :=
  ⟨_, rfl, by decide⟩

theorem witness_IndexWrites : ∃ t, exec (.ldIAddr 5) base = .next t ∧ t.index ≠ base.index := ⟨_, rfl, by decide⟩

theorem witness_BcdDigitsStored : (base.setIndex 0xFFD).mem.wf ∧ (base.setIndex 0xFFD).index.toNat + 2 = 0xFFF := by decide

/-- The last block that fits, and the first that does not. -/
theorem witness_RegisterBlocks :
    base.mem.wf ∧ (base.setIndex 0xFF0).index.toNat + (0xF#4).toNat = 0xFFF ∧
    (base.setIndex 0xFF1).index.toNat + (0xF#4).toNat = 0x1000 := by decide

theorem witness_BlockLoadInvertsStore :
    ∃ s t u : State, s.mem.wf ∧ exec (.ldMemVx 1) s = .next t ∧ t.outcome = .ok ∧ u.mem = t.mem ∧ u.index = s.index ∧
      s.index = 0xFFE :=
  ⟨base.setIndex 0xFFE, _, _, by decide, rfl, by decide, rfl, by decide, rfl⟩

theorem witness_MemoryKeysAndTimersReached :
    (∀ x, Instr.addIVx 0 ≠ .ldBVx x) ∧ (∀ x, Instr.addIVx 0 ≠ .ldMemVx x) ∧ (∀ x, Instr.addIVx 0 ≠ .ldVxMem x) ∧
    (∀ x y n, Instr.addIVx 0 ≠ .drwVxVy x y n) ∧ (∀ x, Instr.addIVx 0 ≠ .skpVx x) ∧ (∀ x, Instr.addIVx 0 ≠ .sknpVx x) ∧
    (∀ x, Instr.addIVx 0 ≠ .ldVxDt x) ∧ (∀ x, Instr.addIVx 0 ≠ .ldDtVx x) ∧ (∀ x, Instr.addIVx 0 ≠ .ldStVx x) ∧
    (∃ t, exec (.addIVx 0) base = .next t) ∧ (base.setPending (some 0)).pending ≠ none :=
  ⟨by simp, by simp, by simp, by simp, by simp, by simp, by simp, by simp, by simp, ⟨_, rfl⟩, by decide⟩

/-- Key 15 pressed and not pressed, and the first number that names no key. -/
theorem witness_KeySkips :
    (base.setV 2 15).getV 2 = 15 ∧ keyDown (press [15] base) 15 ∧ ¬keyDown base 15 ∧ ((base.setV 2 16).getV 2).toNat > 15 :=
  ⟨by decide, by unfold keyDown; decide, no_key_down 15, by decide⟩

theorem witness_RandomByteMasked : (0 : RegIx) ≠ 1 ∧ (0 : Byte) = 0 ∧ (0xFF : Byte) = 0xFF := by decide

/-- One of the two clauses always applies. -/
theorem witness_ClsUnderItsParameter : Config.clsClears = true ∨ Config.clsClears = false := by
  cases Config.clsClears <;> simp

/-- A glyph drawn on itself: an erasure, and a covered and an uncovered cell. -/
theorem witness_DrawXorsSpriteAndReportsErasure :
    (∃ s : State, s.index.toNat + (15#4).toNat = 0x1000) ∧
    pixel (drawSprite 62 31 [0x81] Display.blank).1 31 5 = true ∧ SpriteCovers 62 31 [0x81] 31 5 ∧ ¬SpriteCovers 62 31 [] 31 5 :=
  ⟨⟨base.setIndex 0xFF1, by decide⟩, by decide, ⟨0, 7, 0x81, by decide⟩, by rintro ⟨i, j, b, h, _⟩; simp at h⟩

theorem witness_DrawStatements :
    ∃ s t : State, (3 : RegIx) ≠ 0xF ∧ exec (.drwVxVy 3 4 1) s = .next t ∧ t.outcome = .ok ∧ s.disp = Display.blank ∧
      s.index = 0xFFF :=
  ⟨base.setIndex 0xFFF, _, by decide, rfl, by decide, rfl, rfl⟩

theorem witness_DisplayWrittenOnlyByDrawAndCls :
    (∃ t, exec .ret base = .next t) ∧ ∃ s t : State, step s = .next t ∧ s.dirty = true :=
  ⟨⟨_, rfl⟩, ⟨{ base with dirty := true }, _, rfl, rfl⟩⟩

theorem witness_HostPorts :
    (∃ t, hostAct (.key 15 true) base = some t) ∧ (∃ t, hostAct .clearDirty base = some t) ∧ (∃ t, step base = .next t) ∧
    (0 : Nat) ≠ (15 : Fin 16).val :=
  ⟨⟨_, rfl⟩, ⟨_, rfl⟩, ⟨_, rfl⟩, by decide⟩

/-- The longest image, the shortest that is too long, a load after a tick and a second load. -/
theorem witness_ProgramLoadPort :
    base.mem.wf ∧ base.loaded = false ∧ base.ticks = 0 ∧ (List.replicate 3584 (0 : Byte)).length = 3584 ∧
    (List.replicate 3585 (0 : Byte)).length > 3584 ∧ { base with ticks := 1 }.ticks ≠ 0 ∧
    { base with loaded := true }.loaded = true ∧ (∃ t, hostAct .clearDirty base = some t) ∧ ∃ t, step base = .next t :=
  ⟨by decide, rfl, rfl, List.length_replicate, by rw [List.length_replicate]; decide, by decide, rfl, ⟨_, rfl⟩, _, rfl⟩

/-- The invariant at the edges of the stack, the return addresses, PC, Acc and memory, after an error. -/
def edgeState : State :=
  { base with
    pc := 0x10FE, stack := List.replicate 16 0x1000, acc := 999999, mem := [(0xFFF, 1)], halted := true
    outcome := .error (.emptyStackReturn 0) }

theorem edgeState_inv : MachineInv edgeState where
  memCanonical := by decide
  stackBounded := by decide
  returnsBounded := fun w hw => by rw [List.eq_of_mem_replicate hw]; decide
  pcBounded := by decide
  pendingFetched := by decide
  accBounded := by decide
  errorHalts := by decide

/-- A key wait pending at the last PC a fetch is possible from. -/
def waitingState : State := { base with pc := 0xFFE, pending := some 0xF }

theorem waitingState_inv : MachineInv waitingState where
  memCanonical := by decide
  stackBounded := by decide
  returnsBounded := fun w hw => absurd hw List.not_mem_nil
  pcBounded := by decide
  pendingFetched := by decide
  accBounded := by decide
  errorHalts := by decide

theorem witness_StepKeepsInvariant :
    (∃ t, MachineInv edgeState ∧ step edgeState = .next t) ∧ ∃ t, MachineInv waitingState ∧ step waitingState = .next t :=
  ⟨⟨_, edgeState_inv, rfl⟩, ⟨_, waitingState_inv, rfl⟩⟩

theorem witness_HostActionKeepsInvariant : ∃ t, hostAct (.key 15 true) edgeState = some t ∧ MachineInv edgeState :=
  ⟨_, rfl, edgeState_inv⟩

/-- Before the first tick: nothing loaded; and a load, after which the host presses a key. -/
theorem witness_MemoryBeforeFirstTick :
    (∃ s : State, Reachable s ∧ s.ticks = 0 ∧ s.loaded = false) ∧
    ∃ s t u : State, Reachable s ∧ hostAct (.load [0x12, 0x00]) s = some t ∧
      [HostAction.key 15 true].foldlM (fun q a => hostAct a q) t = some u :=
  ⟨⟨_, .reset, rfl, rfl⟩, _, _, _, .reset, rfl, rfl⟩

/-- A word that does not decode is fetched too, at the last PC a fetch is possible from. -/
theorem witness_FetchedWord : fetchWord { base with pc := 0xFFE } = .ok 0 ∧ decode 0 = .error (.unsupportedOpcode 0) := by decide

/-- A state two ticks and a load from reset, from which an instruction is fetched. -/
theorem witness_ReachableStatesMeetInvariant : ∃ s : State, Reachable s ∧ fetchInstr s = .ok (.jpAddr 0x200) :=
  ⟨_, .tick (.tick (.host (.load [0x12, 0x00]) .reset rfl) rfl) rfl, by decide⟩

end Sys2Proof.Tests
end

section
/-! PROOFS, 10_state. The laws that the statements on PC, the call stack and the timers share: what each update of the state
changes, how an instruction ends, and what a pending key wait changes. Then the statements. -/

namespace Sys2Proof.Machine

/-! ### What each update of the state changes -/

section Updates

variable (s : State)

theorem frame_setV (x : RegIx) (b : Byte) : Frame [.regs] s (s.setV x b) := by
  intro p; cases p <;> simp [SamePart]

theorem frame_setFlag (f : Bool) : Frame [.regs] s (s.setFlag f) := frame_setV s flagReg (flagByte f)

theorem frame_setResult (x : RegIx) (b : Byte) (f : Bool) : Frame [.regs] s (s.setResult x b f) := by
  intro p; cases p <;> simp [SamePart]

theorem frame_setRegs (r : Vector Byte 16) : Frame [.regs] s (s.setRegs r) := by
  intro p; cases p <;> simp [SamePart]

theorem frame_setIndex (w : Word) : Frame [.index] s (s.setIndex w) := by
  intro p; cases p <;> simp [SamePart]

theorem frame_setDt (b : Byte) : Frame [.delay] s (s.setDt b) := by
  intro p; cases p <;> simp [SamePart]

theorem frame_setSt (b : Byte) : Frame [.sound] s (s.setSt b) := by
  intro p; cases p <;> simp [SamePart]

theorem frame_setMem (m : Memory) : Frame [.memory] s (s.setMem m) := by
  intro p; cases p <;> simp [SamePart]

theorem frame_setStack (l : List Word) : Frame [.stack] s (s.setStack l) := by
  intro p; cases p <;> simp [SamePart]

theorem frame_setPending (q : Option RegIx) : Frame [.pending] s (s.setPending q) := by
  intro p; cases p <;> simp [SamePart]

theorem frame_haltIf (c : Bool) : Frame [.halted] s (s.haltIf c) := by
  intro p; cases p <;> simp [SamePart]

theorem frame_countDraw : Frame [.draws] s s.countDraw := by
  intro p; cases p <;> simp [SamePart]

theorem frame_setFrame (d : Display) (c : Bool) : Frame [.display, .dirty] s (s.setFrame d c) := by
  intro p; cases p <;> simp [SamePart]

theorem frame_finish (w : Word) : Frame [] s (s.finish w) := by
  intro p; cases p <;> simp [SamePart]

theorem frame_raised (e : CoreError) : Frame [.halted] s (s.raised e) := by
  intro p; cases p <;> simp [SamePart]

end Updates

theorem SamePart.trans {s t u : State} {p : Part} (h : SamePart s t p) (h' : SamePart t u p) : SamePart s u p := by
  cases p with
  | regs => exact fun x => (h' x).trans (h x)
  | memory => exact fun a => (h' a).trans (h a)
  | ports => exact ⟨h'.1.trans h.1, h'.2.trans h.2⟩
  | _ => exact Eq.trans h' h

/-- Two updates in a row change what either changes. -/
theorem Frame.trans {l l' : List Part} {s t u : State} (h : Frame l s t) (h' : Frame l' t u) : Frame (l ++ l') s u :=
  fun p hp => (h p fun m => hp (List.mem_append_left _ m)).trans (h' p fun m => hp (List.mem_append_right _ m))

/-- How a step ends adds nothing to what it has changed. -/
theorem Frame.finish {l : List Part} {s t : State} (h : Frame l s t) (w : Word) : Frame l s (t.finish w) :=
  fun p hp => (h p hp).trans (frame_finish t w p List.not_mem_nil)

/-! ### CALL and RET, one equation for each case -/

theorem exec_callAddr_of_lt {s : State} (nnn : Addr) (h : s.stack.length < 16) :
    exec (.callAddr nnn) s = .next ((s.setStack (s.stack ++ [s.pc + 2])).finish (zextAddr nnn)) := by
  rcases exec_callAddr_cases nnn s with ⟨_, e⟩ | ⟨hn, _⟩
  · exact e
  · omega

theorem exec_callAddr_of_full {s : State} (nnn : Addr) (h : 16 ≤ s.stack.length) :
    exec (.callAddr nnn) s = .next (s.raised (.callStackOverflow s.pc)) := by
  rcases exec_callAddr_cases nnn s with ⟨hn, _⟩ | ⟨_, e⟩
  · omega
  · exact e

theorem exec_ret_of_concat {s : State} {l : List Word} {w : Word} (h : s.stack = l ++ [w]) :
    exec .ret s = .next ((s.setStack l).finish w) := by
  rcases exec_ret_cases s with ⟨l', w', h', e⟩ | ⟨hn, _⟩
  · obtain ⟨rfl, rfl⟩ := List.concat_inj.mp (by simpa using h.symm.trans h')
    exact e
  · simp [h] at hn

theorem exec_ret_of_nil {s : State} (h : s.stack = []) :
    exec .ret s = .next (s.raised (.emptyStackReturn s.pc)) := by
  rcases exec_ret_cases s with ⟨l, w, h', _⟩ | ⟨_, e⟩
  · simp [h] at h'
  · exact e

theorem toNat_zextAddr (nnn : Addr) : (zextAddr nnn).toNat = nnn.toNat := by
  simp [zextAddr]; omega

/-! ### How an instruction ends -/

/-- The pieces an instruction that raises nothing may change, PC and the outcome aside. -/
def partsWritten : Instr → List Part
  | .cls => [.display, .dirty]
  | .drwVxVy .. => [.display, .dirty, .regs]
  | .ret | .callAddr _ => [.stack]
  | .jpAddr _ => [.halted]
  | .jpV0Addr _ | .skpVx _ | .sknpVx _ => []
  | .seVxByte .. | .sneVxByte .. | .seVxVy .. | .sneVxVy .. => []
  | .rndVxByte .. => [.regs, .draws]
  | .ldVxK _ => [.pending]
  | .ldDtVx _ => [.delay]
  | .ldStVx _ => [.sound]
  | .ldIAddr _ | .addIVx _ | .ldFVx _ => [.index]
  | .ldBVx _ | .ldMemVx _ => [.memory]
  | _ => [.regs]

/-- An instruction that raised nothing: Ok, PC by its rule, and no piece changed but its own (10_state R24). -/
structure Completed (i : Instr) (s t : State) : Prop where
  outcome : t.outcome = .ok
  pc : t.pc = pcAfter i s
  frame : Frame (partsWritten i) s t

/-- An instruction completes by its rules or only raises an error: the one case split over the instructions that the statements
on what they change are read from. -/
theorem exec_next {i : Instr} {s t : State} (h : exec i s = .next t) : Completed i s t ∨ ∃ e, t = s.raised e := by
  cases i with
  | cls => cases h; exact .inl ⟨rfl, rfl, (frame_setFrame s _ _).finish _⟩
  | ret =>
    rcases exec_ret_cases s with ⟨l, w, hl, e⟩ | ⟨_, e⟩ <;> cases e.symm.trans h
    · exact .inl ⟨rfl, by simp [pcAfter, hl], (frame_setStack s _).finish _⟩
    · exact .inr ⟨_, rfl⟩
  | jpAddr nnn => cases h; exact .inl ⟨rfl, rfl, (frame_haltIf s _).finish _⟩
  | callAddr nnn =>
    rcases exec_callAddr_cases nnn s with ⟨_, e⟩ | ⟨_, e⟩ <;> cases e.symm.trans h
    · exact .inl ⟨rfl, rfl, (frame_setStack s _).finish _⟩
    · exact .inr ⟨_, rfl⟩
  | jpV0Addr nnn => cases h; exact .inl ⟨rfl, rfl, frame_finish s _⟩
  | seVxByte x b | sneVxByte x b | seVxVy x b | sneVxVy x b =>
    cases h; exact .inl ⟨rfl, by simp [pcAfter], frame_finish s _⟩
  | skpVx x =>
    rcases exec_skpVx_cases x s with ⟨hk, e⟩ | ⟨_, e⟩ <;> cases e.symm.trans h
    · exact .inl ⟨rfl, by simp [pcAfter, hk], frame_finish s _⟩
    · exact .inr ⟨_, rfl⟩
  | sknpVx x =>
    rcases exec_sknpVx_cases x s with ⟨hk, e⟩ | ⟨_, e⟩ <;> cases e.symm.trans h
    · exact .inl ⟨rfl, by simp [pcAfter, hk], frame_finish s _⟩
    · exact .inr ⟨_, rfl⟩
  | drwVxVy x y n =>
    rcases exec_drwVxVy_cases x y n s with ⟨_, e⟩ | ⟨_, _, e⟩ <;> cases e.symm.trans h
    · exact .inl ⟨rfl, rfl, ((frame_setFrame s _ _).trans (frame_setFlag _ _)).finish _⟩
    · exact .inr ⟨_, rfl⟩
  | ldBVx x =>
    rcases exec_ldBVx_cases x s with ⟨_, e⟩ | ⟨_, e⟩ <;> cases e.symm.trans h
    · exact .inl ⟨rfl, rfl, (frame_setMem s _).finish _⟩
    · exact .inr ⟨_, rfl⟩
  | ldMemVx x =>
    rcases exec_ldMemVx_cases x s with ⟨_, e⟩ | ⟨_, e⟩ <;> cases e.symm.trans h
    · exact .inl ⟨rfl, rfl, (frame_setMem s _).finish _⟩
    · exact .inr ⟨_, rfl⟩
  | ldVxMem x =>
    rcases exec_ldVxMem_cases x s with ⟨_, e⟩ | ⟨_, e⟩ <;> cases e.symm.trans h
    · exact .inl ⟨rfl, rfl, (frame_setRegs s _).finish _⟩
    · exact .inr ⟨_, rfl⟩
  | rndVxByte x kk => cases h; exact .inl ⟨rfl, rfl, ((frame_setV s _ _).trans (frame_countDraw _)).finish _⟩
  | ldVxK x => cases h; exact .inl ⟨rfl, rfl, (frame_setPending s _).finish _⟩
  | ldDtVx x => cases h; exact .inl ⟨rfl, rfl, (frame_setDt s _).finish _⟩
  | ldStVx x => cases h; exact .inl ⟨rfl, rfl, (frame_setSt s _).finish _⟩
  | ldIAddr a | addIVx a | ldFVx a => cases h; exact .inl ⟨rfl, rfl, (frame_setIndex s _).finish _⟩
  | addVxVy x y | subVxVy x y | shrVx x y | subnVxVy x y | shlVx x y =>
    cases h; exact .inl ⟨rfl, rfl, (frame_setResult s _ _ _).finish _⟩
  | ldVxByte x b | addVxByte x b | ldVxVy x b | orVxVy x b | andVxVy x b | xorVxVy x b =>
    cases h; exact .inl ⟨rfl, rfl, (frame_setV s _ _).finish _⟩
  | ldVxDt x => cases h; exact .inl ⟨rfl, rfl, (frame_setV s _ _).finish _⟩

/-- Whatever happens, an instruction leaves a piece that it does not write, halted aside. -/
theorem samePart_of_exec {i : Instr} {s t : State} {p : Part} (h : exec i s = .next t) (hp : p ∉ partsWritten i)
    (hh : p ≠ .halted) : SamePart s t p := by
  rcases exec_next h with hc | ⟨e, rfl⟩
  · exact hc.frame p hp
  · exact frame_raised s e p (by simpa using hh)

/-- Only CALL and RET write the stack (10_state R33). -/
theorem stack_notMem_partsWritten {i : Instr} (hc : ∀ nnn, i ≠ .callAddr nnn) (hr : i ≠ .ret) :
    Part.stack ∉ partsWritten i := by
  cases i with
  | callAddr nnn => exact absurd rfl (hc nnn)
  | ret => exact absurd rfl hr
  | _ => simp [partsWritten]

/-- Only LD DT,Vx writes DT (10_state R28). -/
theorem delay_notMem_partsWritten {i : Instr} (h : ∀ x, i ≠ .ldDtVx x) : Part.delay ∉ partsWritten i := by
  cases i with
  | ldDtVx x => exact absurd rfl (h x)
  | _ => simp [partsWritten]

/-- Only LD ST,Vx writes ST (10_state R28). -/
theorem sound_notMem_partsWritten {i : Instr} (h : ∀ x, i ≠ .ldStVx x) : Part.sound ∉ partsWritten i := by
  cases i with
  | ldStVx x => exact absurd rfl (h x)
  | _ => simp [partsWritten]

/-! ### A pending key wait -/

theorem lowestKey_eq_none_iff (s : State) : lowestKey s.keys = none ↔ ¬∃ k, keyDown s k := by
  simp only [lowestKey_none, keyDown, ← List.mem_iff_getElem?]
  exact ⟨fun h hm => by simpa using h true hm, fun h b hb => Bool.eq_false_of_not_eq_true fun e => h (e ▸ hb)⟩

/-- A wait changes only Vx and the pending instruction, with PC and the outcome (45_step_machine R236). -/
theorem frame_of_waitStep {x : RegIx} {s t : State} (h : waitStep x s = .next t) : Frame [.regs, .pending] s t := by
  rcases waitStep_cases x s with ⟨k, _, e⟩ | ⟨_, e⟩ <;> cases e.symm.trans h
  · exact ((frame_setV s _ _).trans (frame_setPending _ _)).finish _
  · exact fun p _ => frame_finish s _ p List.not_mem_nil

/-- PC after a wait: past the instruction once a key is pressed, else unchanged (10_state R24). -/
theorem pc_of_waitStep {x : RegIx} {s t : State} (h : waitStep x s = .next t) :
    ((∃ k, keyDown s k) → t.pc = s.pc + 2) ∧ ((¬∃ k, keyDown s k) → t.pc = s.pc) := by
  rw [← lowestKey_eq_none_iff]
  rcases waitStep_cases x s with ⟨k, hk, e⟩ | ⟨hk, e⟩ <;> cases e.symm.trans h
  · exact ⟨fun _ => rfl, fun hn => by simp [hk] at hn⟩
  · exact ⟨fun hd => absurd hd ((lowestKey_eq_none_iff s).mp hk), fun _ => rfl⟩

theorem coreStep_of_pending {s : State} {x : RegIx} (h : s.pending = some x) : coreStep s = waitStep x s := by
  simp [coreStep, h]

/-! ### PC -/

/-- Settles O15: the cases of the step, a wait by `pc_of_waitStep` and an instruction by `exec_next`. -/
theorem pcWritesOfATick : Obligations.PcWritesOfATick := by
  intro s t h
  obtain ⟨u, hu, rfl⟩ := tick_next h
  refine ⟨fun x hx => pc_of_waitStep (t := u) ((coreStep_of_pending hx).symm.trans hu), fun hp => ?_⟩
  rcases coreStep_cases s with ⟨_, e, _, hs⟩ | ⟨_, i, hf, hs⟩ | ⟨x, hx, _⟩
  · cases hs.symm.trans hu
    exact ⟨fun _ => rfl, fun ho => by simp at ho⟩
  · rcases exec_next (hs.symm.trans hu) with hc | ⟨e, rfl⟩
    · exact ⟨fun ho => absurd hc.outcome ho, fun _ => ⟨i, hf, hc.pc⟩⟩
    · exact ⟨fun _ => rfl, fun ho => by simp at ho⟩
  · simp [hp] at hx

/-! ### The call stack -/

theorem stack_of_exec {i : Instr} {s t : State} (hc : ∀ nnn, i ≠ .callAddr nnn) (hr : i ≠ .ret)
    (h : exec i s = .next t) : t.stack = s.stack :=
  samePart_of_exec h (stack_notMem_partsWritten hc hr) (by simp)

/-- A tick that wrote the stack executed CALL or RET (10_state R33). -/
theorem fetched_of_stack_ne {s t : State} (h : step s = .next t) (hne : t.stack ≠ s.stack) :
    s.pending = none ∧ (fetchInstr s = .ok .ret ∨ ∃ nnn, fetchInstr s = .ok (.callAddr nnn)) := by
  obtain ⟨u, hu, rfl⟩ := tick_next h
  rcases coreStep_cases s with ⟨_, e, _, hs⟩ | ⟨hp, i, hf, hs⟩ | ⟨x, _, hs⟩
  · cases hs.symm.trans hu
    exact absurd rfl hne
  · refine ⟨hp, ?_⟩
    by_contra hn
    have hc : ∀ nnn, i ≠ .callAddr nnn := fun nnn hi => hn (.inr ⟨nnn, hi ▸ hf⟩)
    have hr : i ≠ .ret := fun hi => hn (.inl (hi ▸ hf))
    exact hne (stack_of_exec (t := u) hc hr (hs.symm.trans hu))
  · exact absurd (frame_of_waitStep (hs.symm.trans hu) .stack (by simp)) hne

theorem stack_of_hostAct {a : HostAction} {s t : State} (h : hostAct a s = some t) : t.stack = s.stack := by
  cases a with
  | load image =>
    rcases loadProgram_cases image s with ⟨_, e⟩ | ⟨_, e⟩ <;> cases e.symm.trans h
    rfl
  | key k b => cases h; rfl
  | clearDirty => cases h; rfl
  | elapsed l => cases h; rfl

/-- Settles O27: only CALL and RET write the stack, and each does by its two equations. -/
theorem stackWrittenByCallAndRet : Obligations.StackWrittenByCallAndRet := by
  refine ⟨fun i s t => stack_of_exec, fun s t => fetched_of_stack_ne, fun a s t => stack_of_hostAct,
    fun s nnn => ⟨fun h => ?_, fun h => ?_, fun l w h => ?_, fun h => ?_⟩⟩
  · exact ⟨_, exec_callAddr_of_lt nnn h, rfl, rfl, toNat_zextAddr nnn, (frame_setStack s _).finish _⟩
  · exact ⟨_, exec_callAddr_of_full nnn h.ge, rfl, rfl⟩
  · exact ⟨_, exec_ret_of_concat h, rfl, rfl, rfl, (frame_setStack s _).finish _⟩
  · exact ⟨_, exec_ret_of_nil h, rfl, rfl⟩

/-! ### The timers -/

/-- A check and what follows it, on a state changed by f: if the check reads nothing of the change and what follows carries it
along, so does the whole. -/
theorem orRaise_mapNext {α : Type} {f : State → State} {r : Except CoreError α} {s : State} {k k' : α → Out}
    (hr : ∀ e, (f s).raised e = f (s.raised e)) (hk : ∀ a, k' a = mapNext f (k a)) :
    orRaise r (f s) k' = mapNext f (orRaise r s k) := by
  cases r with
  | ok a => exact hk a
  | error e => exact congrArg Host.Outcome.next (hr e)

/-- Both timers replaced. -/
def State.setTimers (d b : Byte) (s : State) : State := (s.setDt d).setSt b

/-- The three instructions that name a timer (10_state R28). -/
def namesTimer : Instr → Bool
  | .ldVxDt _ | .ldDtVx _ | .ldStVx _ => true
  | _ => false

/-- An instruction that names no timer does the same whatever the timers hold, and carries them along. -/
theorem exec_setTimers {i : Instr} (hi : namesTimer i = false) (d b : Byte) (s : State) :
    exec i (s.setTimers d b) = mapNext (State.setTimers d b) (exec i s) := by
  cases i with
  | ldVxDt x | ldDtVx x | ldStVx x => cases hi
  | callAddr nnn =>
    rcases exec_callAddr_cases nnn s with ⟨h, e⟩ | ⟨h, e⟩ <;> rw [e]
    · exact exec_callAddr_of_lt nnn h
    · exact exec_callAddr_of_full nnn h
  | ret =>
    rcases exec_ret_cases s with ⟨l, w, h, e⟩ | ⟨h, e⟩ <;> rw [e]
    · exact exec_ret_of_concat h
    · exact exec_ret_of_nil h
  | skpVx x | sknpVx x | drwVxVy x y n | ldBVx x | ldMemVx x | ldVxMem x =>
    exact orRaise_mapNext (fun _ => rfl) fun _ => rfl
  | _ => rfl

theorem dt_of_exec {i : Instr} {s t : State} (h : exec i s = .next t) (hi : ∀ x, i ≠ .ldDtVx x) : t.dt = s.dt :=
  samePart_of_exec h (delay_notMem_partsWritten hi) (by simp)

theorem st_of_exec {i : Instr} {s t : State} (h : exec i s = .next t) (hi : ∀ x, i ≠ .ldStVx x) : t.st = s.st :=
  samePart_of_exec h (sound_notMem_partsWritten hi) (by simp)

/-- No instruction reads ST (10_state R28). -/
theorem exec_ignores_st {i : Instr} {s t : State} (b : Byte) (h : exec i s = .next t) :
    ∃ u, exec i { s with st := b } = .next u ∧ { u with st := t.st } = t := by
  cases i with
  | ldVxDt x | ldDtVx x | ldStVx x => cases h; exact ⟨_, rfl, rfl⟩
  | _ =>
    have hu := (exec_setTimers rfl s.dt b s).trans (congrArg _ h)
    have hdt : t.dt = s.dt := dt_of_exec h (by simp)
    exact ⟨_, hu, by rw [← hdt]; rfl⟩

/-- No instruction but LD Vx,DT reads DT (10_state R28). -/
theorem exec_ignores_dt {i : Instr} {s t : State} (b : Byte) (h : exec i s = .next t) (hi : ∀ x, i ≠ .ldVxDt x) :
    ∃ u, exec i { s with dt := b } = .next u ∧ { u with dt := t.dt } = t := by
  cases i with
  | ldVxDt x => exact absurd rfl (hi x)
  | ldDtVx x | ldStVx x => cases h; exact ⟨_, rfl, rfl⟩
  | _ =>
    have hu := (exec_setTimers rfl b s.st s).trans (congrArg _ h)
    have hst : t.st = s.st := st_of_exec h (by simp)
    exact ⟨_, hu, by rw [← hst]; rfl⟩

/-- After the step the decay alone moves the timers, and a wait moves neither (10_state R28). -/
theorem timers_of_step {s t : State} (h : step s = .next t) :
    ∃ u, coreStep s = .next u ∧ t.dt = (timerPass (nextElapsed s) u).dt ∧ t.st = (timerPass (nextElapsed s) u).st ∧
      (s.pending ≠ none → u.dt = s.dt ∧ u.st = s.st) := by
  obtain ⟨u, hu, rfl⟩ := tick_next h
  refine ⟨u, hu, rfl, rfl, fun hp => ?_⟩
  obtain ⟨x, hx⟩ := Option.ne_none_iff_exists'.mp hp
  have hw := frame_of_waitStep ((coreStep_of_pending hx).symm.trans hu)
  exact ⟨hw .delay (by simp), hw .sound (by simp)⟩

/-- Settles O43: each writer by its own effect, every other instruction by what it writes and by `exec_setTimers`. -/
theorem timersTouchedOnlyByTheirInstructions : Obligations.TimersTouchedOnlyByTheirInstructions := by
  refine ⟨fun s t => timers_of_step, fun s b => ⟨rfl, rfl⟩, fun s x => ⟨?_, ?_, ?_⟩, fun i s => ⟨?_, ?_, ?_, ?_⟩⟩
  · exact ⟨_, rfl, rfl⟩
  · exact ⟨_, rfl, rfl⟩
  · exact ⟨_, rfl, getV_setV_same s x s.dt⟩
  · exact fun t => dt_of_exec
  · exact fun t => st_of_exec
  · exact fun t b => exec_ignores_st b
  · exact fun t b => exec_ignores_dt b

end Sys2Proof.Machine
end

section
/-! PROOFS, 20_memory. What a fetch answers by the bytes at PC, what an Idle step makes of that answer, and which instruction
makes the state Waiting. Then the statement. -/

namespace Sys2Proof.Machine

/-! ### Fetch -/

/-- Within memory the fetch answers the word whose value the two bytes at PC give, big-endian (20_memory R53). -/
theorem fetchWord_of_toNat {s : State} {w : Word} (hpc : s.pc.toNat ≤ 0xFFE)
    (hw : w.toNat = 256 * (memRead s.mem s.pc.toNat).toNat + (memRead s.mem (s.pc.toNat + 1)).toNat) :
    fetchWord s = .ok w := by
  rcases fetchWord_cases s with ⟨_, hf⟩ | ⟨hgt, _⟩
  · rw [hf, BitVec.eq_of_toNat_eq (hw.trans (toNat_word _ _).symm)]
  · omega

/-- A fetch past memory is the range error (20_memory R56). -/
theorem fetchInstr_of_pc_gt {s : State} (hpc : 0xFFE < s.pc.toNat) :
    fetchInstr s = .error (.outOfRangeAccess (.mem (max s.pc.toNat 0x1000))) := by
  rcases fetchWord_cases s with ⟨hle, _⟩ | ⟨_, hf⟩
  · omega
  · simp [fetchInstr, hf]

theorem fetchInstr_of_decode_ok {s : State} {w : Word} {i : Instr} (hf : fetchWord s = .ok w) (hd : decode w = .ok i) :
    fetchInstr s = .ok i := by
  simp [fetchInstr, hf, hd]

theorem fetchInstr_of_decode_error {s : State} {w : Word} {d : DecodeError} (hf : fetchWord s = .ok w)
    (hd : decode w = .error d) : fetchInstr s = .error (.unsupportedOpcode w) := by
  simp [fetchInstr, hf, hd]

/-! ### An Idle step -/

theorem coreStep_of_fetch_ok {s : State} {i : Instr} (hp : s.pending = none) (hf : fetchInstr s = .ok i) :
    coreStep s = exec i s := by
  simp [coreStep, idleStep, orRaise, hp, hf]

theorem coreStep_of_fetch_error {s : State} {e : CoreError} (hp : s.pending = none) (hf : fetchInstr s = .error e) :
    coreStep s = raise e s := by
  simp [coreStep, idleStep, orRaise, hp, hf]

/-- Only LD Vx,K writes the pending instruction (45_step_machine R232). -/
theorem pending_notMem_partsWritten {i : Instr} (h : ∀ x, i ≠ .ldVxK x) : Part.pending ∉ partsWritten i := by
  cases i with
  | ldVxK x => exact absurd rfl (h x)
  | _ => simp [partsWritten]

/-- From Idle, LD Vx,K alone leaves the state Waiting (45_step_machine R233). -/
theorem pending_ne_none_of_exec {i : Instr} {s t : State} (hp : s.pending = none) (h : exec i s = .next t) :
    t.pending ≠ none ↔ ∃ x, i = .ldVxK x := by
  constructor
  · intro hne
    by_contra hi
    have hsame : t.pending = s.pending :=
      samePart_of_exec h (pending_notMem_partsWritten (not_exists.mp hi)) (by simp)
    exact hne (hsame.trans hp)
  · rintro ⟨x, rfl⟩
    cases h
    simp

/-- PC after an instruction that raised nothing (10_state R24). -/
theorem pc_of_exec_ok {i : Instr} {s t : State} (h : exec i s = .next t) (ho : t.outcome = .ok) : t.pc = pcAfter i s := by
  rcases exec_next h with hc | ⟨e, rfl⟩
  · exact hc.pc
  · simp at ho

/-- Settles O8: the range check, the word and the decoder's answer fix what the fetch answers, and that fixes the step. -/
theorem idleStepFetchesDecodesExecutes : Obligations.IdleStepFetchesDecodesExecutes := by
  intro s hp
  refine ⟨fun hpc => coreStep_of_fetch_error hp (fetchInstr_of_pc_gt hpc), fun hpc w hw => ?_⟩
  have hf : fetchWord s = .ok w := fetchWord_of_toNat hpc hw
  refine ⟨fun hd => coreStep_of_fetch_error hp (fetchInstr_of_decode_error hf hd), fun i hd => ⟨?_, fun t ht ho => ?_⟩⟩
  · exact coreStep_of_fetch_ok hp (fetchInstr_of_decode_ok hf hd)
  · exact ⟨pc_of_exec_ok ht ho, pending_ne_none_of_exec hp ht⟩

end Sys2Proof.Machine
end

section
/-! PROOFS, 30_encoding. Which words match no row of the decode table, family by family. Then the statement. -/

namespace Sys2Proof

/-- A word is unsupported exactly when its family has no row for it (30_encoding R80). -/
theorem decode_eq_unsupported_iff (w : Word) : decode w = .error (.unsupportedOpcode w) ↔ decodeRow w = none := by
  rcases decode_cases w with ⟨i, hr, hd⟩ | ⟨hr, hd⟩ <;> simp [hr, hd]

/-! ### The families that leave words out -/

theorem decodeRow_of_family5 {w : Word} (h : w.toNat / 4096 = 0x5) :
    decodeRow w = if nField w = 0 then some (.seVxVy (xField w) (yField w)) else none := by
  simp [decodeRow, (toNat_fields w).1, h]

theorem decodeRow_of_family8 {w : Word} (h : w.toNat / 4096 = 0x8) :
    decodeRow w = decodeFamily8 (nField w) (xField w) (yField w) := by
  simp [decodeRow, (toNat_fields w).1, h]

theorem decodeRow_of_familyE {w : Word} (h : w.toNat / 4096 = 0xE) : decodeRow w = decodeFamilyE (kkField w) (xField w) := by
  simp [decodeRow, (toNat_fields w).1, h]

theorem decodeRow_of_familyF {w : Word} (h : w.toNat / 4096 = 0xF) : decodeRow w = decodeFamilyF (kkField w) (xField w) := by
  simp [decodeRow, (toNat_fields w).1, h]

/-- A test that answers `some` passes `none` on only when it fails: the step along the tests of families 0xE and 0xF. -/
theorem ite_some_eq_none_iff {α : Type} {c : Prop} [Decidable c] {a : α} {o : Option α} :
    (if c then some a else o) = none ↔ ¬c ∧ o = none := by
  by_cases hc : c <;> simp [hc]

/-- Family 0x8 has a row for nine values of n (30_encoding R88). -/
theorem decodeFamily8_eq_none_iff (n : Nibble) (x y : RegIx) :
    decodeFamily8 n x y = none ↔ n.toNat ∈ [0x8, 0x9, 0xA, 0xB, 0xC, 0xD, 0xF] := by
  have hn : n.toNat < 16 := n.isLt
  unfold decodeFamily8
  split
  case h_10 =>
    simp only [imp_false, List.mem_cons, List.not_mem_nil, or_false, true_iff] at *
    omega
  all_goals simp [*]

theorem decodeFamilyE_eq_none_iff (kk : Byte) (x : RegIx) : decodeFamilyE kk x = none ↔ kk.toNat ∉ [0x9E, 0xA1] := by
  simp [decodeFamilyE, ite_some_eq_none_iff, BitVec.toNat_eq]

theorem decodeFamilyF_eq_none_iff (kk : Byte) (x : RegIx) :
    decodeFamilyF kk x = none ↔ kk.toNat ∉ [0x07, 0x0A, 0x15, 0x18, 0x1E, 0x29, 0x33, 0x55, 0x65] := by
  simp [decodeFamilyF, ite_some_eq_none_iff, BitVec.toNat_eq]

/-- Settles O5: the top nibble picks the family, and the family answers `none` outside the values of n or kk that it lists. -/
theorem malformedSubcasesUnsupported : Obligations.MalformedSubcasesUnsupported := by
  intro w
  obtain ⟨-, hn, hkk⟩ := toNat_fields w
  rw [decode_eq_unsupported_iff, ← hn, ← hkk]
  refine ⟨fun h => ?_, fun h => ?_, fun h => ?_, fun h => ?_⟩
  · simp [decodeRow_of_family5 h, BitVec.toNat_eq]
  · rw [decodeRow_of_family8 h, decodeFamily8_eq_none_iff]
  · rw [decodeRow_of_familyE h, decodeFamilyE_eq_none_iff]
  · rw [decodeRow_of_familyF h, decodeFamilyF_eq_none_iff]

end Sys2Proof
end

section
/-! PROOFS, 40_control_flow. The decoder on the words of the encoder; how a skip ends; what a CALL that raised nothing leaves. Then
the statements. -/

namespace Sys2Proof

/-- The decoder reads back every instruction that the encoder writes: each format gives its fields back (30_encoding R72, R73), and
the family and the function code select the row (R75, R76). -/
theorem decode_encode (i : Instr) : decode (encode i) = .ok i := by
  cases i with
  | cls | ret => rfl
  | jpAddr nnn | callAddr nnn | ldIAddr nnn | jpV0Addr nnn => simp [encode, decode, decodeRow, fields_opNnn]
  | seVxByte x kk | sneVxByte x kk | ldVxByte x kk | addVxByte x kk | rndVxByte x kk =>
    simp [encode, decode, decodeRow, fields_opXKk]
  | seVxVy x y | sneVxVy x y => simp [encode, decode, decodeRow, fields_fourNibbles]
  | drwVxVy x y n => simp [encode, decode, decodeRow, fields_fourNibbles]
  | ldVxVy x y | orVxVy x y | andVxVy x y | xorVxVy x y | addVxVy x y | subVxVy x y | shrVx x y | subnVxVy x y | shlVx x y =>
    simp [encode, decode, decodeRow, decodeFamily8, fields_fourNibbles]
  | skpVx x | sknpVx x => simp [encode, decode, decodeRow, decodeFamilyE, fields_opXKk]
  | ldVxDt x | ldVxK x | ldDtVx x | ldStVx x | addIVx x | ldFVx x | ldBVx x | ldMemVx x | ldVxMem x =>
    simp [encode, decode, decodeRow, decodeFamilyF, fields_opXKk]

end Sys2Proof

namespace Sys2Proof.Machine

/-! ### CALL, then RET -/

/-- A CALL that raised nothing pushed the next word's address, jumped, and did nothing else (40_control_flow R104). -/
theorem eq_of_callAddr_ok {s t : State} {nnn : Addr} (h : exec (.callAddr nnn) s = .next t) (ho : t.outcome = .ok) :
    t = (s.setStack (s.stack ++ [s.pc + 2])).finish (zextAddr nnn) := by
  rcases exec_callAddr_cases nnn s with ⟨_, e⟩ | ⟨_, e⟩ <;> cases e.symm.trans h
  · rfl
  · simp at ho

/-- Settles O28: CALL left PC + 2 on top of the old stack, and RET pops that entry from any state with this stack. -/
theorem callThenRetResumes : Obligations.CallThenRetResumes := by
  intro s t u nnn h ho hu
  obtain rfl := eq_of_callAddr_ok h ho
  have hret : exec .ret u = .next ((u.setStack s.stack).finish (s.pc + 2)) := exec_ret_of_concat hu
  exact ⟨fun _ => rfl, rfl, _, hret, rfl, rfl, rfl, fun _ => rfl, rfl⟩

/-! ### The compare-and-skip instructions -/

/-- A skip changes PC, and nothing else, to a word w that its condition gives (40_control_flow R105, R110). -/
theorem skipIf_next {c : Bool} {s : State} {w : Word} (hw : w = if c then s.pc + 4 else s.pc + 2) :
    ∃ t, skipIf c s = .next t ∧ t.outcome = .ok ∧ Frame [] s t ∧ t.pc = w :=
  ⟨_, skipIf_eq c s, rfl, frame_finish s _, hw.symm⟩

/-- The skip target of a fetched instruction does not wrap (10_state R25). -/
theorem toNat_skipTarget {pc : Word} (h : pc.toNat ≤ 0xFFE) : (pc + 4).toNat = pc.toNat + 4 ∧ (pc + 4).toNat ≤ 0x1002 := by
  have heq : (pc + 4).toNat = pc.toNat + 4 := BitVec.toNat_add_of_lt (show pc.toNat + 4 < 65536 by omega)
  exact ⟨heq, by omega⟩

/-- Settles O25: the encodings by `decode_encode`, each comparison by `skipIf_next` with bytes compared as numbers. -/
theorem skipsCompareAndAdvance : Obligations.SkipsCompareAndAdvance := by
  intro s x y kk
  refine ⟨⟨decode_encode (.seVxByte x kk), decode_encode (.sneVxByte x kk), decode_encode (.seVxVy x y),
    decode_encode (.sneVxVy x y)⟩, skipIf_next ?_, skipIf_next ?_, skipIf_next ?_, skipIf_next ?_, toNat_skipTarget,
    fun t => fetchInstr_of_pc_gt⟩
  all_goals simp [BitVec.toNat_inj]

end Sys2Proof.Machine
end

section
/-! PROOFS, 41_alu. How an instruction that writes one register, or a result with its flag, ends; the flags and the wrapping
difference as numbers. Then the statements. -/

namespace Sys2Proof.Machine

/-! ### How an ALU instruction ends -/

/-- An instruction that writes one register ends Ok past itself, and P holds of the register as it does of the byte written
(41_alu R130 to R135). -/
theorem advance_setV_next (P : Byte → Prop) {s : State} {x : RegIx} {b : Byte} (hb : P b) :
    ∃ t, advance (s.setV x b) = .next t ∧ t.outcome = .ok ∧ t.pc = s.pc + 2 ∧ Frame [.regs] s t ∧
      P (t.getV x) ∧ ∀ z, z ≠ x → t.getV z = s.getV z := by
  refine ⟨_, advance_eq _, rfl, rfl, (frame_setV s x b).finish _, ?_, fun z hz => getV_setV_ne s b hz⟩
  rwa [State.finish_getV, getV_setV_same]

/-- An instruction that writes a result and its flag ends the same way: VF holds the flag whatever x is, and P holds of V[x], as
it does of the result, where x is not VF (41_alu R136 to R140, R142). -/
theorem advance_setResult_next (P : Byte → Prop) {s : State} {x : RegIx} {b : Byte} {f : Bool} {n : Nat}
    (hf : (flagByte f).toNat = n) (hb : P b) :
    ∃ t, advance (s.setResult x b f) = .next t ∧ t.outcome = .ok ∧ t.pc = s.pc + 2 ∧ Frame [.regs] s t ∧
      (t.getV 0xF).toNat = n ∧ (x ≠ 0xF → P (t.getV x)) ∧ ∀ z, z ≠ x → z ≠ 0xF → t.getV z = s.getV z := by
  refine ⟨_, advance_eq _, rfl, rfl, (frame_setResult s x b f).finish _, ?_, fun hx => ?_, fun z hzx hzf => ?_⟩
  · rwa [State.finish_getV, getV_setResult, if_pos rfl]
  · rwa [State.finish_getV, getV_setResult, if_neg hx, if_pos rfl]
  · rw [State.finish_getV, getV_setResult, if_neg hzf, if_neg hzx]

/-! ### Flags and differences as numbers -/

theorem toNat_flagByte (f : Bool) : (flagByte f).toNat = f.toNat := by
  cases f <;> rfl

/-- A flag that compares numbers: the carry and the inverted borrow (41_alu R136, R137, R139). -/
theorem toNat_flagByte_decide (p : Prop) [Decidable p] : (flagByte (decide p)).toNat = if p then 1 else 0 := by
  rw [toNat_flagByte, Bool.toNat, Bool.cond_decide]

/-- A flag that is bit i of a byte: the bit a shift pushes out (41_alu R138, R140). -/
theorem toNat_flagByte_getLsbD (a : Byte) (i : Nat) : (flagByte (a.getLsbD i)).toNat = a.toNat / 2 ^ i % 2 := by
  rw [toNat_flagByte, BitVec.getLsbD, Nat.toNat_testBit]

/-- The wrapping difference of two bytes is their integer difference modulo 256 (41_alu R137, R139). -/
theorem toNat_byte_sub (a b : Byte) : ((a - b).toNat : Int) = ((a.toNat : Int) - b.toNat) % 256 := by
  have hb : b.toNat < 256 := b.isLt
  rw [BitVec.toNat_sub]
  omega

/-! ### The statements -/

/-- Settles O33: both write a result with its flag, the wrapping difference and the comparison of the two bytes. -/
theorem subtractionsAndBorrow : Obligations.SubtractionsAndBorrow := by
  intro s x y
  refine ⟨⟨decode_encode (.subVxVy x y), decode_encode (.subnVxVy x y)⟩, ?_, ?_⟩
  · exact advance_setResult_next (fun b => (b.toNat : Int) = ((s.getV x).toNat - (s.getV y).toNat : Int) % 256)
      (toNat_flagByte_decide _) (toNat_byte_sub _ _)
  · exact advance_setResult_next (fun b => (b.toNat : Int) = ((s.getV y).toNat - (s.getV x).toNat : Int) % 256)
      (toNat_flagByte_decide _) (toNat_byte_sub _ _)

/-- Settles O34: a shift by one halves or doubles the byte, and its flag is bit 0 or bit 7 of the byte. -/
theorem shiftsByOne : Obligations.ShiftsByOne := by
  intro s x y
  have hlt : (s.getV x).toNat < 256 := (s.getV x).isLt
  have hlow : (flagByte (shiftedOutRight (s.getV x))).toNat = (s.getV x).toNat % 2 :=
    (toNat_flagByte_getLsbD _ 0).trans (by omega)
  have hhigh : (flagByte (shiftedOutLeft (s.getV x))).toNat = (s.getV x).toNat / 128 :=
    (toNat_flagByte_getLsbD _ 7).trans (by omega)
  refine ⟨⟨decode_encode (.shrVx x y), decode_encode (.shlVx x y)⟩, ?_, ?_⟩
  · refine advance_setResult_next (fun b => b.toNat = (s.getV x).toNat / 2) hlow ?_
    rw [BitVec.toNat_ushiftRight, Nat.shiftRight_eq_div_pow, Nat.pow_one]
  · refine advance_setResult_next (fun b => b.toNat = 2 * (s.getV x).toNat % 256) hhigh ?_
    rw [BitVec.toNat_shiftLeft, Nat.shiftLeft_eq, Nat.pow_one, Nat.mul_comm]

/-- Settles O29: both write one register and no flag. -/
theorem immediateLoadAndAdd : Obligations.ImmediateLoadAndAdd := by
  intro s x kk
  refine ⟨⟨decode_encode (.ldVxByte x kk), decode_encode (.addVxByte x kk)⟩, ?_, ?_⟩
  · exact advance_setV_next (fun b => b = kk) rfl
  · exact advance_setV_next (fun b => b.toNat = ((s.getV x).toNat + kk.toNat) % 256) (BitVec.toNat_add _ _)

/-- Settles O30: each writes one register and no flag, and bit j of the byte is the operation on the two bits j. -/
theorem logicOperationsBitwise : Obligations.LogicOperationsBitwise := by
  intro s x y
  refine ⟨⟨decode_encode (.orVxVy x y), decode_encode (.andVxVy x y), decode_encode (.xorVxVy x y)⟩, ?_, ?_, ?_⟩
  · exact advance_setV_next (fun b => ∀ j < 8, b.getLsbD j = ((s.getV x).getLsbD j || (s.getV y).getLsbD j))
      fun _ _ => BitVec.getLsbD_or
  · exact advance_setV_next (fun b => ∀ j < 8, b.getLsbD j = ((s.getV x).getLsbD j && (s.getV y).getLsbD j))
      fun _ _ => BitVec.getLsbD_and
  · exact advance_setV_next (fun b => ∀ j < 8, b.getLsbD j = ((s.getV x).getLsbD j ^^ (s.getV y).getLsbD j))
      fun _ _ => BitVec.getLsbD_xor

/-- Settles O32: a result with its flag, the wrapping sum and the comparison of the exact sum with 255. -/
theorem addSumAndCarry : Obligations.AddSumAndCarry := by
  intro s x y
  refine ⟨decode_encode (.addVxVy x y), ?_⟩
  exact advance_setResult_next (fun b => b.toNat = ((s.getV x).toNat + (s.getV y).toNat) % 256)
    (toNat_flagByte_decide _) (BitVec.toNat_add _ _)

end Sys2Proof.Machine
end

section
/-! PROOFS, 42_memory_index. What memory and the registers hold after a block transfer, byte by byte. Then the statements. -/

namespace Sys2Proof.Machine

/-- After V0..Vx are stored, the i-th byte of the block is V[i], for i up to and with x (42_memory_index R167). -/
theorem memRead_writeBytes_regBlock {s : State} (hm : s.mem.wf) {x i : RegIx} (hle : blockAddr s + (x.toNat + 1) ≤ 4096)
    (hi : i.toNat ≤ x.toNat) : memRead (writeBytes s.mem (blockAddr s) (regBlock s x)) (blockAddr s + i.toNat) = s.getV i := by
  have hfit : blockAddr s + (regBlock s x).length ≤ memSize := by rwa [length_regBlock]
  have hlt : i.toNat < (regBlock s x).length := by rw [length_regBlock]; omega
  rw [memRead_writeBytes_in hm hfit hlt, getElem_regBlock]

/-- A register after the bytes of a block are loaded from V0 up: its own byte, or what it held (42_memory_index R168). -/
theorem getV_setRegs_loadRegs (s : State) (bs : List Byte) (i : RegIx) :
    (s.setRegs (loadRegs 0 bs s.v)).getV i = if h : i.toNat < bs.length then bs[i.toNat] else s.getV i := by
  simpa [State.getV] using getElem_loadRegs 0 bs s.v i.toNat i.isLt

/-- Settles O38: the range check alone tells the two ends apart; a block that fits is read back byte by byte, and every address
outside it is left alone. -/
theorem registerBlockStored : Obligations.RegisterBlockStored := by
  intro s x hm
  refine ⟨decode_encode (.ldMemVx x), ?_⟩
  have hb : blockAddr s = s.index.toNat := rfl
  rcases exec_ldMemVx_cases x s with ⟨hle, e⟩ | ⟨hgt, e⟩
  · refine ⟨fun _ => ⟨_, e, rfl, rfl, (frame_setMem s _).finish _, fun i => memRead_writeBytes_regBlock hm hle,
      fun a ha => ?_⟩, fun _ => by omega⟩
    exact memRead_writeBytes_out s.mem _ (by rw [length_regBlock]; omega)
  · exact ⟨fun _ => by omega, fun _ => ⟨_, e, rfl, rfl, frame_raised s _⟩⟩

/-- Settles O39: the range check alone tells the two ends apart; a register up to x holds the byte of the block at its number, and
the block has no byte for a register above x. -/
theorem registerBlockLoaded : Obligations.RegisterBlockLoaded := by
  intro s x
  refine ⟨decode_encode (.ldVxMem x), ?_⟩
  have hb : blockAddr s = s.index.toNat := rfl
  rcases exec_ldVxMem_cases x s with ⟨hle, e⟩ | ⟨hgt, e⟩
  · refine ⟨fun _ => ⟨_, e, rfl, rfl, (frame_setRegs s _).finish _, fun i hi => ?_, fun i hi => ?_⟩, fun _ => by omega⟩
    · have hlt : i.toNat < (readBytes s.mem (blockAddr s) (x.toNat + 1)).length := by rw [length_readBytes]; omega
      rw [State.finish_getV, getV_setRegs_loadRegs, dif_pos hlt, getElem_readBytes]
    · rw [State.finish_getV, getV_setRegs_loadRegs, dif_neg (by rw [length_readBytes]; omega)]
  · exact ⟨fun _ => by omega, fun _ => ⟨_, e, rfl, rfl, frame_raised s _⟩⟩

end Sys2Proof.Machine
end

section
/-! PROOFS, 43_timer_key. The statements on the timer loads and stores and on the first execution of a key wait. -/

namespace Sys2Proof.Machine

/-- Settles O42: each writes one register or one timer and no accumulator, so the tick's pass finds the timer just written with Acc
as it was, and leaves the register that was loaded. -/
theorem timerLoadsAndStores : Obligations.TimerLoadsAndStores := by
  intro s x
  refine ⟨⟨decode_encode (.ldVxDt x), decode_encode (.ldDtVx x), decode_encode (.ldStVx x)⟩, ?_, ?_, ?_⟩
  · obtain ⟨t, hexec, hok, hpc, hframe, hx, hother⟩ := advance_setV_next (· = s.dt) (s := s) (x := x) rfl
    exact ⟨t, hexec, hok, hpc, hframe, hx, hother, fun e => (endTick_getV t e x).trans hx⟩
  · exact ⟨_, advance_eq _, rfl, rfl, (frame_setDt s _).finish _, rfl, fun e => endTick_dt _ e⟩
  · exact ⟨_, advance_eq _, rfl, rfl, (frame_setSt s _).finish _, rfl, fun e => endTick_st _ e⟩

/-- Settles O45: the state it leaves is the one before it with the pending instruction set, whatever the keys and V[x] hold. -/
theorem keyWaitBecomesPending : Obligations.KeyWaitBecomesPending := by
  intro s x
  exact ⟨decode_encode (.ldVxK x), (s.setPending (some x)).finish s.pc, rfl, rfl, rfl, rfl,
    (frame_setPending s _).finish _, fun _ _ => rfl⟩

end Sys2Proof.Machine
end

section
/-! PROOFS, 45_step_machine. What a Waiting step does by the keys, what a host action can change, and what each leaves of the
pending instruction and of the key states. With them the statements on the two states and on the ports. -/

namespace Sys2Proof.Machine

/-! ### A Waiting step -/

theorem keyDown_lt {s : State} {k : Nat} (h : keyDown s k) : k < 16 := by
  obtain ⟨hlt, _⟩ := List.getElem?_eq_some_iff.mp h
  simpa using hlt

/-- With a key down the wait completes, and what it puts in Vx is a key that is down (43_timer_key R187). -/
theorem waitStep_of_keyDown {s : State} (x : RegIx) (h : ∃ k, keyDown s k) :
    ∃ k, keyDown s k ∧
      waitStep x s = .next (((s.setV x (BitVec.ofNat 8 k)).setPending none).finish (s.pc + 2)) := by
  rcases waitStep_cases x s with ⟨k, hk, e⟩ | ⟨hn, _⟩
  · exact ⟨k, ((lowestKey_some s.keys k).mp hk).1, e⟩
  · exact absurd h ((lowestKey_eq_none_iff s).mp hn)

/-- With no key down the wait goes on (43_timer_key R187). -/
theorem waitStep_of_no_keyDown {s : State} (x : RegIx) (h : ¬∃ k, keyDown s k) :
    waitStep x s = .next (s.finish s.pc) := by
  rcases waitStep_cases x s with ⟨k, hk, _⟩ | ⟨_, e⟩
  · simp [(lowestKey_eq_none_iff s).mpr h] at hk
  · exact e

/-- A wait does not read memory and carries it along (45_step_machine R236). -/
theorem waitStep_setMem (x : RegIx) (s : State) (m : Memory) :
    waitStep x (s.setMem m) = mapNext (State.setMem · m) (waitStep x s) := by
  unfold waitStep
  rw [State.setMem_keys]
  cases lowestKey s.keys <;> rfl

theorem coreStep_setMem_of_pending {s t : State} {x : RegIx} (hp : s.pending = some x) (h : waitStep x s = .next t)
    (m : Memory) : coreStep (s.setMem m) = .next (t.setMem m) :=
  calc coreStep (s.setMem m) = waitStep x (s.setMem m) := coreStep_of_pending hp
    _ = mapNext (State.setMem · m) (waitStep x s) := waitStep_setMem x s m
    _ = .next (t.setMem m) := congrArg _ h

/-- Settles O11: a key is down or none is, and `waitStep` has one equation for each. -/
theorem waitingStepReevaluates : Obligations.WaitingStepReevaluates := by
  intro s x hp
  by_cases hd : ∃ k, keyDown s k
  · obtain ⟨k, hk, e⟩ := waitStep_of_keyDown x hd
    refine ⟨_, (coreStep_of_pending hp).trans e, rfl,
      fun _ => ⟨rfl, rfl, frame_of_waitStep e, ?_, fun y hy => getV_setV_ne s _ hy⟩,
      fun hn => absurd hd hn, coreStep_setMem_of_pending hp e⟩
    have hlt := keyDown_lt hk
    simpa [Nat.mod_eq_of_lt (show k < 256 by omega)] using hk
  · have e := waitStep_of_no_keyDown x hd
    exact ⟨_, (coreStep_of_pending hp).trans e, rfl, fun h => absurd h hd,
      fun _ => ⟨rfl, frame_finish s s.pc⟩, coreStep_setMem_of_pending hp e⟩

/-! ### What a host action can change -/

/-- The pieces of state that a host action may change (45_step_machine R230, R240). -/
def partsReached : HostAction → List Part
  | .key .. => [.keys]
  | .clearDirty => [.dirty]
  | .load _ => [.memory, .loaded]
  | .elapsed _ => [.ports]

theorem frame_setKey (k : Fin 16) (b : Bool) (s : State) : Frame [.keys] s (setKey k b s) := by
  intro p; cases p <;> simp [SamePart]

theorem frame_clearDirty (s : State) : Frame [.dirty] s (clearDirty s) := by
  intro p; cases p <;> simp [SamePart]

theorem frame_giveElapsed (l : List Nat) (s : State) : Frame [.ports] s (giveElapsed l s) := by
  intro p; cases p <;> simp [SamePart]

theorem frame_markLoaded (s : State) : Frame [.loaded] s s.markLoaded := by
  intro p; cases p <;> simp [SamePart]

/-- The one case split over the host actions that the statements on what they change are read from. -/
theorem frame_of_hostAct {a : HostAction} {s t : State} (h : hostAct a s = some t) : Frame (partsReached a) s t := by
  cases a with
  | key k b => cases h; exact frame_setKey k b s
  | clearDirty => cases h; exact frame_clearDirty s
  | load image =>
    rcases loadProgram_cases image s with ⟨_, e⟩ | ⟨_, e⟩ <;> cases e.symm.trans h
    exact (frame_setMem s _).trans (frame_markLoaded _)
  | elapsed l => cases h; exact frame_giveElapsed l s

/-- No host action reaches the pending instruction (45_step_machine R232). -/
theorem pending_of_hostAct {a : HostAction} {s t : State} (h : hostAct a s = some t) : t.pending = s.pending :=
  frame_of_hostAct h .pending (by cases a <;> simp [partsReached])

/-- No host action reaches the grid (45_step_machine R245). -/
theorem disp_of_hostAct {a : HostAction} {s t : State} (h : hostAct a s = some t) : t.disp = s.disp :=
  frame_of_hostAct h .display (by cases a <;> simp [partsReached])

/-- Only the key input port writes a key state (45_step_machine R246). -/
theorem keys_of_hostAct {a : HostAction} {s t : State} (ha : ∀ k b, a ≠ .key k b) (h : hostAct a s = some t) :
    t.keys = s.keys := by
  refine frame_of_hostAct h .keys ?_
  cases a with
  | key k b => exact absurd rfl (ha k b)
  | _ => simp [partsReached]

/-- No host action sets the dirty flag (45_step_machine R245). -/
theorem dirty_of_hostAct {a : HostAction} {s t : State} (h : hostAct a s = some t) (hd : t.dirty = true) :
    s.dirty = true := by
  cases a with
  | clearDirty => cases h; simp at hd
  | _ => exact (frame_of_hostAct h .dirty (by simp [partsReached])).symm.trans hd

/-! ### The two states -/

/-- From Idle, executing LD Vx,K alone leaves the state Waiting on x (45_step_machine R232). -/
theorem pending_eq_some_iff_of_exec {i : Instr} {s t : State} {x : RegIx} (hp : s.pending = none)
    (h : exec i s = .next t) : t.pending = some x ↔ i = .ldVxK x := by
  constructor
  · intro ht
    obtain ⟨y, rfl⟩ := (pending_ne_none_of_exec hp h).mp (by simp [ht])
    cases h
    simpa using ht
  · rintro rfl
    cases h
    rfl

/-- An Idle step makes the state Waiting on x exactly when it fetches LD Vx,K (45_step_machine R232). -/
theorem pending_eq_some_iff_of_idle {s t : State} {x : RegIx} (hp : s.pending = none) (h : coreStep s = .next t) :
    t.pending = some x ↔ fetchInstr s = .ok (.ldVxK x) := by
  rcases coreStep_cases s with ⟨_, e, hf, hs⟩ | ⟨_, i, hf, hs⟩ | ⟨y, hy, _⟩
  · cases hs.symm.trans h
    simp [hp, hf]
  · simp [pending_eq_some_iff_of_exec hp (hs.symm.trans h), hf]
  · simp [hp] at hy

/-- A wait ends exactly when some key is down (45_step_machine R232, R236). -/
theorem pending_of_waitStep {x : RegIx} {s t : State} (hp : s.pending = some x) (h : waitStep x s = .next t) :
    ((∃ k, keyDown s k) → t.pending = none) ∧ ((¬∃ k, keyDown s k) → t.pending = some x) := by
  refine ⟨fun hd => ?_, fun hn => ?_⟩
  · obtain ⟨k, _, e⟩ := waitStep_of_keyDown x hd
    cases e.symm.trans h
    rfl
  · cases (waitStep_of_no_keyDown x hn).symm.trans h
    exact hp

/-- Settles O14: the tick's pass leaves the pending instruction, so each state's transitions are those of its step. -/
theorem twoStatesOnly : Obligations.TwoStatesOnly := by
  refine ⟨rfl, fun a s t => pending_of_hostAct, fun s t h => ?_⟩
  obtain ⟨u, hu, rfl⟩ := tick_next h
  exact ⟨fun hp x => pending_eq_some_iff_of_idle (t := u) hp hu,
    fun x hx => pending_of_waitStep (t := u) hx ((coreStep_of_pending hx).symm.trans hu)⟩

/-! ### The key input port -/

theorem getElem?_keys_setKey (k : Fin 16) (b : Bool) (s : State) (j : Nat) :
    (setKey k b s).keys.toList[j]? = if j = k.val then some b else s.keys.toList[j]? := by
  by_cases h : j = k.val
  · simp [h]
  · simp [h, Vector.getElem?_set_ne k.isLt (Ne.symm h)]

theorem keyDown_setKey (k : Fin 16) (s : State) : keyDown (setKey k true s) k.val :=
  (getElem?_keys_setKey k true s k.val).trans (if_pos rfl)

theorem readKey_setKey {v : Byte} {k : Fin 16} (hv : v.toNat = k.val) (b : Bool) (s : State) :
    readKey (setKey k b s) v = .ok b := by
  simp [readKey, hv]

theorem exec_skpVx_of_readKey {x : RegIx} {s : State} {b : Bool} (h : readKey s (s.getV x) = .ok b) :
    exec (.skpVx x) s = .next (s.finish (if b then s.pc + 4 else s.pc + 2)) := by
  show orRaise (readKey s (s.getV x)) s _ = _
  rw [h]; rfl

theorem exec_sknpVx_of_readKey {x : RegIx} {s : State} {b : Bool} (h : readKey s (s.getV x) = .ok b) :
    exec (.sknpVx x) s = .next (s.finish (if !b then s.pc + 4 else s.pc + 2)) := by
  show orRaise (readKey s (s.getV x)) s _ = _
  rw [h]; rfl

/-- No instruction writes a key state (10_state R34). -/
theorem keys_notMem_partsWritten (i : Instr) : Part.keys ∉ partsWritten i := by
  cases i <;> simp [partsWritten]

/-- No tick writes a key state (45_step_machine R246). -/
theorem keys_of_step {s t : State} (h : step s = .next t) : t.keys = s.keys := by
  obtain ⟨u, hu, rfl⟩ := tick_next h
  rcases coreStep_cases s with ⟨_, e, _, hs⟩ | ⟨_, i, _, hs⟩ | ⟨x, _, hs⟩
  · cases hs.symm.trans hu
    rfl
  · exact samePart_of_exec (hs.symm.trans hu) (keys_notMem_partsWritten i) (by simp)
  · exact frame_of_waitStep (hs.symm.trans hu) .keys (by simp)

/-- Settles O52: the port's effect is one entry of the key states, and each of the three readers sees it. -/
theorem keyInputPort : Obligations.KeyInputPort := by
  refine ⟨fun s k b => ⟨setKey k b s, rfl, ?_, fun j hj => ?_, rfl, rfl, frame_setKey k b s,
      fun x => ⟨?_, fun hx => ?_⟩⟩,
    fun a s t => keys_of_hostAct, fun s t => keys_of_step⟩
  · rw [getElem?_keys_setKey, if_pos rfl]
  · rw [getElem?_keys_setKey, if_neg hj]
  · rintro rfl hp
    obtain ⟨_, _, e⟩ := waitStep_of_keyDown x ⟨k.val, keyDown_setKey k s⟩
    exact ⟨_, (coreStep_of_pending (s := setKey k true s) hp).trans e, rfl⟩
  · have hr : readKey (setKey k b s) ((setKey k b s).getV x) = .ok b := readKey_setKey hx b s
    exact ⟨⟨_, exec_skpVx_of_readKey hr, rfl⟩, _, exec_sknpVx_of_readKey hr, by cases b <;> rfl⟩

/-! ### The frame output port -/

/-- A draw that executes sets the dirty flag, whatever it draws (10_state R39). -/
theorem dirty_of_drwVxVy_ok {x y : RegIx} {n : Nibble} {s t : State} (h : exec (.drwVxVy x y n) s = .next t)
    (ho : t.outcome = .ok) : t.dirty = true := by
  rcases exec_drwVxVy_cases x y n s with ⟨_, e⟩ | ⟨_, _, e⟩ <;> cases e.symm.trans h
  · rfl
  · simp at ho

/-- Settles O53: what the host can do to the frame is read from `frame_of_hostAct`, and the draw's own effect sets the flag. -/
theorem frameOutputPort : Obligations.FrameOutputPort :=
  ⟨fun _ => rfl, fun s => ⟨clearDirty s, rfl, rfl, rfl, rfl, frame_clearDirty s⟩,
    fun _ _ _ h => ⟨disp_of_hostAct h, dirty_of_hostAct h⟩, fun _ _ _ _ _ => dirty_of_drwVxVy_ok⟩

end Sys2Proof.Machine
end

section
/-! PROOFS, 60_exceptions. What k decrements of one timer can do. Then the statement on the two timers of a pass. -/

namespace Sys2Proof.Machine

/-- A timer at 0 stays at 0 (60_exceptions R283). -/
theorem decayed_zero (k : Nat) : decayed 0 k = 0 :=
  BitVec.eq_of_toNat_eq <| (toNat_decayed 0 k).trans (Nat.zero_sub k)

/-- No timer grows (60_exceptions R283). -/
theorem toNat_decayed_le (t : Byte) (k : Nat) : (decayed t k).toNat ≤ t.toNat :=
  (toNat_decayed t k).trans_le (Nat.sub_le t.toNat k)

/-- Settles O17: a pass takes one number of decrements, fixed by Acc and the elapsed time alone, off each timer by itself. -/
theorem timersFloorSeparately : Obligations.TimersFloorSeparately := by
  intro e s
  refine ⟨fun h => ?_, fun h => ?_, toNat_decayed_le _ _, toNat_decayed_le _ _, fun b => ⟨rfl, rfl⟩,
    (s.acc + 60 * e) / decayInterval, toNat_decayed _ _, toNat_decayed _ _⟩
  · rw [timerPass_dt, h, decayed_zero]
  · rw [timerPass_st, h, decayed_zero]

end Sys2Proof.Machine
end

section
/-! PROOFS, 30_encoding: the round trip from words, and the decode table. A word that decodes is its instruction's word; a word that
matches a row is the word of an instruction of that row. Then the statements. -/

namespace Sys2Proof

/-- Settles O1: the round trip, which `decode_encode` states of every instruction. -/
theorem decodeOfEncode : Obligations.DecodeOfEncode := decode_encode

/-! ### A word from its fields, the family known -/

theorem opNnn_of_fields {w : Word} {op : Nibble} (hop : opField w = op) : opNnn op (nnnField w) = w :=
  hop ▸ opNnn_fields w

theorem opXKk_of_fields {w : Word} {op : Nibble} {kk : Byte} (hop : opField w = op) (hkk : kkField w = kk) :
    opXKk op (xField w) kk = w :=
  hop ▸ hkk ▸ opXKk_fields w

theorem fourNibbles_of_fields {w : Word} {op n : Nibble} (hop : opField w = op) (hn : nField w = n) :
    fourNibbles op (xField w) (yField w) n = w :=
  hop ▸ hn ▸ fourNibbles_fields w

/-! ### A word that decodes -/

theorem nibble_eq_ofNat {n : Nibble} {k : Nat} (h : n.toNat = k) : n = BitVec.ofNat 4 k := by
  rw [← h, BitVec.ofNat_toNat, BitVec.setWidth_eq]

/-- A test that answers `some` answers it when it holds, else what follows does: the step along the tests of families 0x0, 0xE and
0xF. -/
theorem ite_some_eq_some_iff {α : Type} {c : Prop} [Decidable c] {a b : α} {o : Option α} :
    (if c then some a else o) = some b ↔ (c ∧ a = b) ∨ (¬c ∧ o = some b) := by
  by_cases hc : c <;> simp [hc]

theorem encode_of_decodeFamily0 {w : Word} {i : Instr} (h : decodeFamily0 w = some i) : encode i = w := by
  simp only [decodeFamily0, ite_some_eq_some_iff] at h
  obtain ⟨rfl, rfl⟩ | ⟨-, ⟨rfl, rfl⟩ | ⟨-, h⟩⟩ := h
  · rfl
  · rfl
  · cases h

theorem encode_of_decodeFamily8 {n : Nibble} {x y : RegIx} {i : Instr} (h : decodeFamily8 n x y = some i) :
    encode i = fourNibbles 0x8 x y n := by
  unfold decodeFamily8 at h
  split at h
  case h_10 => cases h
  all_goals
    rename_i hn
    obtain rfl := nibble_eq_ofNat hn
    cases h
    rfl

theorem encode_of_decodeFamilyE {kk : Byte} {x : RegIx} {i : Instr} (h : decodeFamilyE kk x = some i) :
    encode i = opXKk 0xE x kk := by
  simp only [decodeFamilyE, ite_some_eq_some_iff] at h
  obtain ⟨rfl, rfl⟩ | ⟨-, ⟨rfl, rfl⟩ | ⟨-, h⟩⟩ := h
  · rfl
  · rfl
  · cases h

theorem encode_of_decodeFamilyF {kk : Byte} {x : RegIx} {i : Instr} (h : decodeFamilyF kk x = some i) :
    encode i = opXKk 0xF x kk := by
  unfold decodeFamilyF at h
  repeat' split at h
  case isFalse => cases h
  all_goals
    rename_i hkk
    cases hkk
    cases h
    rfl

/-- A word of a family with one row is that row's word with the word's own fields; the other families have a lemma each
(30_encoding R73, R75). -/
theorem encode_of_decodeRow {w : Word} {i : Instr} (h : decodeRow w = some i) : encode i = w := by
  unfold decodeRow at h
  -- case h_k is the family of op field k - 1
  split at h <;> rename_i hop
  case h_17 => cases h
  all_goals replace hop := nibble_eq_ofNat hop
  case h_1 => exact encode_of_decodeFamily0 h
  case h_6 | h_10 =>
    obtain ⟨hn, h⟩ := Option.ite_none_right_eq_some.mp h
    cases h
    exact fourNibbles_of_fields hop hn
  case h_9 => exact (encode_of_decodeFamily8 h).trans (fourNibbles_of_fields hop rfl)
  case h_15 => exact (encode_of_decodeFamilyE h).trans (opXKk_of_fields hop rfl)
  case h_16 => exact (encode_of_decodeFamilyF h).trans (opXKk_of_fields hop rfl)
  all_goals cases h
  case h_2 | h_3 | h_11 | h_12 => exact opNnn_of_fields hop
  case h_14 => exact fourNibbles_of_fields hop rfl
  all_goals exact opXKk_of_fields hop rfl

/-- Settles O2: the decoder answers through `decodeRow`, and each family keeps every bit. -/
theorem encodeOfDecode : Obligations.EncodeOfDecode := by
  intro w i h
  rcases decode_cases w with ⟨j, hr, hd⟩ | ⟨_, hd⟩ <;> cases hd.symm.trans h
  exact encode_of_decodeRow hr

/-! ### The unsupported words -/

theorem decodeRow_of_family0 {w : Word} (h : w.toNat / 4096 = 0x0) : decodeRow w = decodeFamily0 w := by
  simp [decodeRow, (toNat_fields w).1, h]

theorem decodeRow_of_family9 {w : Word} (h : w.toNat / 4096 = 0x9) :
    decodeRow w = if nField w = 0 then some (.sneVxVy (xField w) (yField w)) else none := by
  simp [decodeRow, (toNat_fields w).1, h]

theorem exists_decode_iff (w : Word) : (∃ i, decode w = .ok i) ↔ ¬decode w = .error (.unsupportedOpcode w) := by
  rcases decode_cases w with ⟨i, _, hd⟩ | ⟨_, hd⟩ <;> simp [hd]

/-- The ten families with one row decode every word (30_encoding R92). -/
theorem exists_decode_of_full_family {w : Word} (h : w.toNat / 4096 ∉ [0x0, 0x5, 0x8, 0x9, 0xE, 0xF]) :
    ∃ i, decode w = .ok i := by
  have hlt : w.toNat / 4096 < 16 := by have := w.isLt; omega
  have hop := (toNat_fields w).1
  rw [exists_decode_iff, decode_eq_unsupported_iff, decodeRow, hop]
  generalize w.toNat / 4096 = f at h hlt
  interval_cases f <;> simp at h ⊢

/-- Family 0x0 has two rows, both without operands (30_encoding R86). -/
theorem unsupported_iff_of_family0 {w : Word} (h : w.toNat / 4096 = 0x0) :
    decode w = .error (.unsupportedOpcode w) ↔ w ≠ 0x00E0 ∧ w ≠ 0x00EE := by
  rw [decode_eq_unsupported_iff, decodeRow_of_family0 h]
  simp [decodeFamily0, ite_some_eq_none_iff]

theorem unsupported_iff_of_family9 {w : Word} (h : w.toNat / 4096 = 0x9) :
    decode w = .error (.unsupportedOpcode w) ↔ w.toNat % 16 ≠ 0 := by
  rw [decode_eq_unsupported_iff, decodeRow_of_family9 h, ← (toNat_fields w).2.1]
  simp [BitVec.toNat_eq]

/-- The checks of WellFormed.lean, each as a condition on the words of its family (30_encoding R86 to R91). -/
theorem wellFormed_iff (w : Word) : wellFormed w = true ↔
    (w.toNat / 4096 = 0x0 → w = 0x00E0 ∨ w = 0x00EE) ∧
    (w.toNat / 4096 = 0x5 → w.toNat % 16 = 0) ∧
    (w.toNat / 4096 = 0x8 → w.toNat % 16 ∉ [0x8, 0x9, 0xA, 0xB, 0xC, 0xD, 0xF]) ∧
    (w.toNat / 4096 = 0x9 → w.toNat % 16 = 0) ∧
    (w.toNat / 4096 = 0xE → w.toNat % 256 ∈ [0x9E, 0xA1]) ∧
    (w.toNat / 4096 = 0xF → w.toNat % 256 ∈ [0x07, 0x0A, 0x15, 0x18, 0x1E, 0x29, 0x33, 0x55, 0x65]) := by
  simp only [wellFormed, family0Ok, family5Ok, family8Ok, family9Ok, familyEOk, familyFOk, Bool.and_eq_true, Bool.or_eq_true,
    bne_iff_ne, beq_iff_eq, Bool.not_eq_true', List.contains_eq_mem, decide_eq_true_eq, decide_eq_false_iff_not,
    imp_iff_not_or, and_assoc, or_assoc, ne_eq]

/-- The checks agree with the decoder, family by family. -/
theorem wellFormed_iff_exists_decode (w : Word) : wellFormed w = true ↔ ∃ i, decode w = .ok i := by
  obtain ⟨h5, h8, hE, hF⟩ := malformedSubcasesUnsupported w
  rw [wellFormed_iff]
  by_cases hf : w.toNat / 4096 ∈ [0x0, 0x5, 0x8, 0x9, 0xE, 0xF]
  · rw [exists_decode_iff]
    simp only [List.mem_cons, List.not_mem_nil, or_false] at hf
    rcases hf with h | h | h | h | h | h
    · simp [h, unsupported_iff_of_family0 h, or_iff_not_imp_left]
    · simp [h, h5 h]
    · rw [h8 h]; simp [h]
    · simp [h, unsupported_iff_of_family9 h]
    · rw [hE h, not_not]; simp [h]
    · rw [hF h, not_not]; simp [h]
  · refine iff_of_true ?_ (exists_decode_of_full_family hf)
    simp only [List.mem_cons, List.not_mem_nil, or_false, not_or] at hf
    simp [hf]

/-- Settles O6: families 0x0 and 0x9 by their rows, the full families by their one row each, and the checks of WellFormed.lean family
by family. -/
theorem supportedWordsExactly : Obligations.SupportedWordsExactly := fun w =>
  ⟨unsupported_iff_of_family0, unsupported_iff_of_family9, exists_decode_of_full_family, wellFormed_iff_exists_decode w⟩

/-! ### A word that matches a row -/

theorem row_covers_encode (i : Instr) : i.row.covers (encode i) = true := by
  open Laws.EncodeMatchesRow in
  cases i with
  | cls => exact cls
  | ret => exact ret
  | jpAddr nnn | callAddr nnn | ldIAddr nnn | jpV0Addr nnn => exact of_opNnn _ nnn
  | seVxByte x kk | sneVxByte x kk | ldVxByte x kk | addVxByte x kk | rndVxByte x kk => exact of_opXKk _ x kk
  | drwVxVy x y n => exact of_drw _ x y n
  | skpVx x | sknpVx x => exact of_opXF _ x _
  | ldVxDt x | ldVxK x | ldDtVx x | ldStVx x | addIVx x | ldFVx x | ldBVx x | ldMemVx x | ldVxMem x => exact of_opXF _ x _
  | _ => exact of_fourNibbles _ _ _ _

theorem row_mem_rows (i : Instr) : i.row ∈ rows := by
  cases i <;> simp [rows, instrKinds, Instr.row]

/-- A field of a masked word is the field masked. -/
theorem fields_and (w m : Word) :
    opField (w &&& m) = opField w &&& opField m ∧ nField (w &&& m) = nField w &&& nField m ∧
      kkField (w &&& m) = kkField w &&& kkField m := by
  simp [opField, nField, kkField, BitVec.extractLsb'_and]

section

variable {r : Row} {w : Word} (h : r.covers w = true)
include h

theorem family_of_covers (hm : r.mask = 0xF000) : w.toNat / 4096 = r.value.toNat / 4096 := by
  have hmask : opField 0xF000 = BitVec.allOnes 4 := by decide
  rw [← (toNat_fields w).1, ← (toNat_fields r.value).1, ← beq_iff_eq.mp h, hm, (fields_and w _).1, hmask, BitVec.and_allOnes]

theorem family_lowNibble_of_covers (hm : r.mask = 0xF00F) :
    w.toNat / 4096 = r.value.toNat / 4096 ∧ w.toNat % 16 = r.value.toNat % 16 := by
  have hmask : opField 0xF00F = BitVec.allOnes 4 ∧ nField 0xF00F = BitVec.allOnes 4 := by decide
  obtain ⟨hop, hn, -⟩ := fields_and w 0xF00F
  obtain ⟨hf, hl, -⟩ := toNat_fields w
  obtain ⟨hf', hl', -⟩ := toNat_fields r.value
  rw [← hf, ← hl, ← hf', ← hl', ← beq_iff_eq.mp h, hm, hop, hn, hmask.1, hmask.2, BitVec.and_allOnes, BitVec.and_allOnes]
  exact ⟨rfl, rfl⟩

theorem family_lowByte_of_covers (hm : r.mask = 0xF0FF) :
    w.toNat / 4096 = r.value.toNat / 4096 ∧ w.toNat % 256 = r.value.toNat % 256 := by
  have hmask : opField 0xF0FF = BitVec.allOnes 4 ∧ kkField 0xF0FF = BitVec.allOnes 8 := by decide
  obtain ⟨hop, -, hkk⟩ := fields_and w 0xF0FF
  obtain ⟨hf, -, hl⟩ := toNat_fields w
  obtain ⟨hf', -, hl'⟩ := toNat_fields r.value
  rw [← hf, ← hl, ← hf', ← hl', ← beq_iff_eq.mp h, hm, hop, hkk, hmask.1, hmask.2, BitVec.and_allOnes, BitVec.and_allOnes]
  exact ⟨rfl, rfl⟩

end

/-- A word that matches a row passes the family checks: the row's mask keeps every field that a check looks at, the family always,
and n or kk where the family has more rows than one (30_encoding R75, R76). -/
theorem wellFormed_of_covers {k : Instr} {w : Word} (h : k.row.covers w = true) : wellFormed w = true := by
  rw [wellFormed_iff]
  cases k with
  | cls | ret =>
    obtain rfl := (BitVec.and_allOnes (x := w)).symm.trans (beq_iff_eq.mp h)
    decide
  | seVxVy | sneVxVy | ldVxVy | orVxVy | andVxVy | xorVxVy | addVxVy | subVxVy | shrVx | subnVxVy | shlVx =>
    obtain ⟨hf, hn⟩ := family_lowNibble_of_covers h rfl
    simp [hf, hn, Instr.row]
  | skpVx | sknpVx | ldVxDt | ldVxK | ldDtVx | ldStVx | addIVx | ldFVx | ldBVx | ldMemVx | ldVxMem =>
    obtain ⟨hf, hkk⟩ := family_lowByte_of_covers h rfl
    simp [hf, hkk, Instr.row]
  | _ =>
    have hf := family_of_covers h rfl
    simp [hf, Instr.row]

theorem exists_decode_of_inTable {w : Word} (h : inTable w = true) : ∃ i, decode w = .ok i := by
  obtain ⟨r, hr, hc⟩ := List.any_eq_true.mp h
  obtain ⟨k, -, rfl⟩ := List.mem_map.mp hr
  exact (wellFormed_iff_exists_decode w).mp (wellFormed_of_covers hc)

/-- Settles O3: a word that decodes is its instruction's word, which matches that instruction's row; a word that matches a row
decodes; else no row covers it, so it does not. -/
theorem decodeFollowsTable : Obligations.DecodeFollowsTable := by
  intro w
  have hrow : ∀ i, decode w = .ok i → i.row ∈ rows ∧ i.row.covers w = true := by
    intro i hd
    obtain rfl := encodeOfDecode w i hd
    exact ⟨row_mem_rows i, row_covers_encode i⟩
  refine ⟨hrow, exists_decode_of_inTable, fun hn => ?_⟩
  rcases decode_cases w with ⟨i, _, hd⟩ | ⟨_, hd⟩
  · exact absurd (List.any_eq_true.mpr ⟨i.row, hrow i hd⟩) (by simpa [inTable] using hn)
  · exact hd

/-- Two rows that ask different bits where both masks look cover no word in common. -/
theorem not_covers_both {r q : Row} (h : r.value &&& q.mask ≠ q.value &&& r.mask) (w : Word) :
    ¬(r.covers w = true ∧ q.covers w = true) := by
  rintro ⟨hr, hq⟩
  refine h ?_
  rw [← beq_iff_eq.mp hr, ← beq_iff_eq.mp hq, BitVec.and_assoc, BitVec.and_assoc, BitVec.and_comm r.mask]

/-- Settles O4: any two of the 34 rows ask different bits where both masks look. -/
theorem tableRowsDisjoint : Obligations.TableRowsDisjoint := by
  have hdiff : rows.Pairwise fun r q => r.value &&& q.mask ≠ q.value &&& r.mask := by decide
  exact ⟨rfl, hdiff.imp fun h => not_covers_both h⟩

/-- Settles O7: ten words, each decoded by evaluation. -/
theorem sampleWordsDecode : Obligations.SampleWordsDecode := by
  unfold Obligations.SampleWordsDecode
  decide

end Sys2Proof
end

section
/-! PROOFS, 60_exceptions and 45_step_machine section 2. Which instruction raises which error, that an error changes nothing but halted
and the outcome, and what a tick makes of that. Then the statements on errors, on halted and on the end of a tick. -/

namespace Sys2Proof.Machine

/-! ### Which instruction raises which error -/

/-- An instruction raises the error that `errorOf` names, or ends Ok where it names none: the one case split over the instructions
that the statements on errors are read from. -/
theorem exec_errorOf (i : Instr) (s : State) :
    (errorOf i s = none ∧ ∃ t, exec i s = .next t ∧ t.outcome = .ok) ∨
    ∃ e, errorOf i s = some e ∧ exec i s = .next (s.raised e) := by
  have hb : blockAddr s = s.index.toNat := rfl
  cases i with
  | ret =>
    rcases exec_ret_cases s with ⟨l, w, hl, e⟩ | ⟨hn, e⟩
    · exact .inl ⟨if_neg (by simp [hl]), _, e, rfl⟩
    · exact .inr ⟨_, if_pos hn, e⟩
  | callAddr nnn =>
    rcases exec_callAddr_cases nnn s with ⟨hlt, e⟩ | ⟨hge, e⟩
    · exact .inl ⟨if_neg (by omega), _, e, rfl⟩
    · exact .inr ⟨_, if_pos hge, e⟩
  | skpVx x =>
    rcases exec_skpVx_cases x s with ⟨hlt, e⟩ | ⟨hgt, e⟩
    · exact .inl ⟨if_neg (by omega), _, e, rfl⟩
    · exact .inr ⟨_, if_pos hgt, e⟩
  | sknpVx x =>
    rcases exec_sknpVx_cases x s with ⟨hlt, e⟩ | ⟨hgt, e⟩
    · exact .inl ⟨if_neg (by omega), _, e, rfl⟩
    · exact .inr ⟨_, if_pos hgt, e⟩
  | drwVxVy x y n =>
    rcases exec_drwVxVy_cases x y n s with ⟨hle, e⟩ | ⟨hn, hgt, e⟩
    · exact .inl ⟨if_neg (by omega), _, e, rfl⟩
    · exact .inr ⟨_, if_pos (by omega), e⟩
  | ldBVx x =>
    rcases exec_ldBVx_cases x s with ⟨hle, e⟩ | ⟨hgt, e⟩
    · exact .inl ⟨if_neg (by omega), _, e, rfl⟩
    · exact .inr ⟨_, if_pos (by omega), e⟩
  | ldMemVx x =>
    rcases exec_ldMemVx_cases x s with ⟨hle, e⟩ | ⟨hgt, e⟩
    · exact .inl ⟨if_neg (by omega), _, e, rfl⟩
    · exact .inr ⟨_, if_pos (by omega), e⟩
  | ldVxMem x =>
    rcases exec_ldVxMem_cases x s with ⟨hle, e⟩ | ⟨hgt, e⟩
    · exact .inl ⟨if_neg (by omega), _, e, rfl⟩
    · exact .inr ⟨_, if_pos (by omega), e⟩
  | _ => exact .inl ⟨rfl, _, rfl, rfl⟩

theorem exists_exec_next (i : Instr) (s : State) : ∃ t, exec i s = .next t := by
  rcases exec_errorOf i s with ⟨_, t, ht, _⟩ | ⟨e, _, ht⟩
  · exact ⟨t, ht⟩
  · exact ⟨_, ht⟩

theorem exists_coreStep_next (s : State) : ∃ u, coreStep s = .next u := by
  rcases coreStep_cases s with ⟨_, e, _, hs⟩ | ⟨_, i, _, hs⟩ | ⟨x, _, hs⟩
  · exact ⟨_, hs⟩
  · exact hs ▸ exists_exec_next i s
  · rcases waitStep_cases x s with ⟨k, _, e⟩ | ⟨_, e⟩
    · exact ⟨_, hs.trans e⟩
    · exact ⟨_, hs.trans e⟩

theorem exists_step_next (s : State) : ∃ t, step s = .next t :=
  let ⟨_, hu⟩ := exists_coreStep_next s
  ⟨_, step_of_coreStep hu⟩

/-- Settles O10: an instruction ends Ok or raises, and a tick is a fetch error, an instruction or a wait, then the timer pass. -/
theorem everyStepAnswersNext : Obligations.EveryStepAnswersNext := ⟨exists_exec_next, exists_step_next⟩

/-- Settles O21: `exec_errorOf`, case by case. -/
theorem errorCausesExactly : Obligations.ErrorCausesExactly := by
  intro i s t h
  rcases exec_errorOf i s with ⟨hn, u, hu, ho⟩ | ⟨e, he, hu⟩ <;> cases hu.symm.trans h
  · rw [hn]; exact ho
  · rw [he]; rfl

/-! ### What an error leaves -/

theorem eq_raised_of_exec_error {i : Instr} {s t : State} {e : CoreError} (h : exec i s = .next t)
    (ho : t.outcome = .error e) : t = s.raised e ∧ errorOf i s = some e := by
  rcases exec_errorOf i s with ⟨_, u, hu, hok⟩ | ⟨e', he, hu⟩ <;> cases hu.symm.trans h
  · simp [hok] at ho
  · cases ho; exact ⟨rfl, he⟩

/-- The end of a tick moves the timers, Acc and the tick's own counts only (45_step_machine R231, R237). -/
theorem frame_endTick (n : Nat) (s : State) : Frame [.delay, .sound, .acc, .ports] s (endTick n s) := by
  intro p; cases p <;> simp [SamePart]

/-- A tick whose fetch or decode fails reports the error and leaves the rest but for halted and the timer pass
(45_step_machine R234). -/
theorem step_of_fetch_error {s : State} {e : CoreError} (hp : s.pending = none) (hf : fetchInstr s = .error e) :
    ∃ t, step s = .next t ∧ t.outcome = .error e ∧ t.pc = s.pc ∧ t.halted = true ∧
      Frame [.delay, .sound, .acc, .ports, .halted] s t := by
  refine ⟨_, step_of_coreStep (coreStep_of_fetch_error hp hf), rfl, rfl, rfl, fun p hp => ?_⟩
  exact ((frame_raised s e).trans (frame_endTick _ _)) p (by simp_all)

/-- Settles O20: an instruction that raises by `exec_errorOf`, a failed fetch or decode by `step_of_fetch_error`. -/
theorem errorLeavesPriorState : Obligations.ErrorLeavesPriorState := by
  refine ⟨fun i s t e h ho => (eq_raised_of_exec_error h ho).1, fun s hp => ⟨fun hpc => ?_, fun hpc w hw hd => ?_⟩⟩
  · exact step_of_fetch_error hp (fetchInstr_of_pc_gt hpc)
  · exact step_of_fetch_error hp (fetchInstr_of_decode_error (fetchWord_of_toNat hpc hw) hd)

/-! ### The same error again -/

/-- Which error an instruction raises does not depend on what an error and the end of a tick change. -/
theorem errorOf_after_raised (i : Instr) (n : Nat) (s : State) (e : CoreError) :
    errorOf i (endTick n (s.raised e)) = errorOf i s := rfl

/-- Why a step raises e: the fetch or the decode of an Idle step fails with it, or the instruction raises it. -/
def RaisesInIdle (s : State) (e : CoreError) : Prop :=
  s.pending = none ∧ (fetchInstr s = .error e ∨ ∃ i, fetchInstr s = .ok i ∧ errorOf i s = some e)

theorem coreStep_of_raisesInIdle {s : State} {e : CoreError} (h : RaisesInIdle s e) : coreStep s = .next (s.raised e) := by
  obtain ⟨hp, hf | ⟨i, hf, he⟩⟩ := h
  · exact coreStep_of_fetch_error hp hf
  · rw [coreStep_of_fetch_ok hp hf]
    rcases exec_errorOf i s with ⟨hn, _⟩ | ⟨e', he', hu⟩
    · simp [hn] at he
    · cases he.symm.trans he'; exact hu

theorem outcome_of_waitStep {x : RegIx} {s t : State} (h : waitStep x s = .next t) : t.outcome = .ok := by
  rcases waitStep_cases x s with ⟨k, _, e⟩ | ⟨_, e⟩ <;> cases e.symm.trans h <;> rfl

theorem raisesInIdle_of_coreStep {s u : State} {e : CoreError} (h : coreStep s = .next u) (ho : u.outcome = .error e) :
    RaisesInIdle s e ∧ u = s.raised e := by
  rcases coreStep_cases s with ⟨hp, e', hf, hs⟩ | ⟨hp, i, hf, hs⟩ | ⟨x, _, hs⟩
  · cases hs.symm.trans h
    cases ho
    exact ⟨⟨hp, .inl hf⟩, rfl⟩
  · obtain ⟨hu, he⟩ := eq_raised_of_exec_error (hs.symm.trans h) ho
    exact ⟨⟨hp, .inr ⟨i, hf, he⟩⟩, hu⟩
  · simp [outcome_of_waitStep (hs.symm.trans h)] at ho

/-- What makes a step raise is still there after the tick that raised: PC, memory, the registers, I and the stack stand. -/
theorem raisesInIdle_after {s : State} {e : CoreError} (n : Nat) (h : RaisesInIdle s e) :
    RaisesInIdle (endTick n (s.raised e)) e := by
  have hf : fetchInstr (endTick n (s.raised e)) = fetchInstr s := fetchInstr_congr rfl rfl
  obtain ⟨hp, hc⟩ := h
  exact ⟨hp, by simpa only [hf, errorOf_after_raised] using hc⟩

/-- Settles O22: the next step finds the same cause, so it raises the same error in a state that is halted already. -/
theorem errorRepeatsOnNextTick : Obligations.ErrorRepeatsOnNextTick := by
  intro s t e h ho
  obtain ⟨u, hu, rfl⟩ := tick_next h
  obtain ⟨hr, rfl⟩ := raisesInIdle_of_coreStep hu ho
  refine ⟨_, step_of_coreStep (coreStep_of_raisesInIdle (raisesInIdle_after _ hr)), rfl, rfl, rfl, fun p hp => ?_⟩
  by_cases hh : p = .halted
  · subst hh; rfl
  · exact ((frame_raised _ e).trans (frame_endTick _ _)) p (by simp_all)

/-- Settles O23: each code is the code of one kind of outcome. -/
theorem outcomeCodesDistinguishKinds : Obligations.OutcomeCodesDistinguishKinds := by
  refine ⟨rfl, fun o => ?_⟩
  cases o with
  | ok => simp [outcomeCode]
  | error e => cases e <;> simp [outcomeCode]

end Sys2Proof.Machine
end

section
/-! PROOFS, 45_step_machine section 2 and 60_exceptions section 6. What a step leaves by the pieces it does not write, halted as a flag
no tick reads, the key wait over many ticks, and the timer pass as a loop and over any split of the time. Then the statements. -/

namespace Sys2Proof.Machine

/-! ### What a step leaves -/

/-- A step leaves a piece that neither a wait nor an error nor the instruction it fetched writes. -/
theorem samePart_of_coreStep {s u : State} {p : Part} (h : coreStep s = .next u) (hp : p ∉ [Part.regs, .pending, .halted])
    (hi : ∀ i, s.pending = none → fetchInstr s = .ok i → p ∉ partsWritten i) : SamePart s u p := by
  simp only [List.mem_cons, List.not_mem_nil, or_false, not_or] at hp
  obtain ⟨hr, hpe, hh⟩ := hp
  rcases coreStep_cases s with ⟨_, e, _, hs⟩ | ⟨hn, i, hf, hs⟩ | ⟨x, _, hs⟩
  · cases hs.symm.trans h
    exact frame_raised s e p (by simpa using hh)
  · exact samePart_of_exec (hs.symm.trans h) (hi i hn hf) hh
  · exact frame_of_waitStep (hs.symm.trans h) p (by simp [hr, hpe])

/-- No instruction writes what the end of a tick and the host's load write. -/
theorem notMem_partsWritten {p : Part} (hp : p ∈ [Part.acc, .ports, .loaded]) (i : Instr) : p ∉ partsWritten i := by
  simp only [List.mem_cons, List.not_mem_nil, or_false] at hp
  rcases hp with rfl | rfl | rfl <;> cases i <;> simp [partsWritten]

theorem acc_of_coreStep {s u : State} (h : coreStep s = .next u) : u.acc = s.acc :=
  samePart_of_coreStep (p := .acc) h (by simp) fun i _ _ => notMem_partsWritten (by simp) i

theorem ports_of_coreStep {s u : State} (h : coreStep s = .next u) : u.elapsedIn = s.elapsedIn ∧ u.ticks = s.ticks :=
  samePart_of_coreStep (p := .ports) h (by simp) fun i _ _ => notMem_partsWritten (by simp) i

theorem loaded_of_coreStep {s u : State} (h : coreStep s = .next u) : u.loaded = s.loaded :=
  samePart_of_coreStep (p := .loaded) h (by simp) fun i _ _ => notMem_partsWritten (by simp) i

theorem dt_of_coreStep {s u : State} (h : coreStep s = .next u)
    (hn : ∀ x, ¬(s.pending = none ∧ fetchInstr s = .ok (.ldDtVx x))) : u.dt = s.dt :=
  samePart_of_coreStep (p := .delay) h (by simp) fun i hp hf =>
    delay_notMem_partsWritten fun x hx => hn x ⟨hp, hx ▸ hf⟩

theorem st_of_coreStep {s u : State} (h : coreStep s = .next u)
    (hn : ∀ x, ¬(s.pending = none ∧ fetchInstr s = .ok (.ldStVx x))) : u.st = s.st :=
  samePart_of_coreStep (p := .sound) h (by simp) fun i hp hf =>
    sound_notMem_partsWritten fun x hx => hn x ⟨hp, hx ▸ hf⟩

/-- The timers after a tick, from those its step left (60_exceptions R285). -/
theorem toNat_timers_endTick (n : Nat) {s u : State} (h : u.acc = s.acc) :
    (endTick n u).dt.toNat = u.dt.toNat - (s.acc + 60 * n) / 1000000 ∧
      (endTick n u).st.toNat = u.st.toNat - (s.acc + 60 * n) / 1000000 := by
  rw [endTick_dt, endTick_st, h]
  exact ⟨toNat_decayed _ _, toNat_decayed _ _⟩

/-- Settles O19: the step leaves Acc and the counts, and of the timers writes only the one its instruction names. -/
theorem timerPassOnEveryTick : Obligations.TimerPassOnEveryTick := by
  intro s t h
  obtain ⟨u, hu, rfl⟩ := tick_next h
  have hacc := acc_of_coreStep hu
  obtain ⟨hin, hticks⟩ := ports_of_coreStep hu
  obtain ⟨hdt, hst⟩ := toNat_timers_endTick (nextElapsed s) hacc
  refine ⟨by rw [endTick_acc, hacc]; rfl, by rw [endTick_ticks, hticks], by rw [endTick_elapsedIn, hin],
    fun x hp hf => ?_, fun hn => ?_, fun x hp hf => ?_, fun hn => ?_⟩
  · cases (coreStep_of_fetch_ok hp hf).symm.trans hu
    exact hdt
  · rw [hdt, dt_of_coreStep hu hn]
  · cases (coreStep_of_fetch_ok hp hf).symm.trans hu
    exact hst
  · rw [hst, st_of_coreStep hu hn]

/-- Settles O9: an Idle step with this word executes it, and Acc and the counts it leaves are those of before. -/
theorem stepRunsDecodedInstruction : Obligations.StepRunsDecodedInstruction := by
  intro s t i hp hpc hd h
  have hf : fetchWord s = .ok (memRead s.mem s.pc.toNat ++ memRead s.mem (s.pc.toNat + 1)) :=
    fetchWord_of_toNat hpc (toNat_word _ _)
  have hs : coreStep s = .next t := (coreStep_of_fetch_ok hp (fetchInstr_of_decode_ok hf hd)).trans h
  obtain ⟨hin, hticks⟩ := ports_of_coreStep hs
  rw [step_of_coreStep hs, endTick, hin, hticks]
  rfl

/-! ### halted -/

/-- halted replaced. -/
def State.withHalted (b : Bool) (s : State) : State := { s with halted := b }

theorem halted_of_exec {i : Instr} {s t : State} (h : exec i s = .next t) (hs : s.halted = true) : t.halted = true := by
  rcases exec_next h with hc | ⟨e, rfl⟩
  · cases i with
    | jpAddr nnn => cases h; simp [hs]
    | _ => exact Eq.trans (hc.frame .halted (by simp [partsWritten])) hs
  · rfl

theorem halted_of_coreStep {s u : State} (h : coreStep s = .next u) (hs : s.halted = true) : u.halted = true := by
  rcases coreStep_cases s with ⟨_, e, _, he⟩ | ⟨_, i, _, he⟩ | ⟨x, _, he⟩
  · cases he.symm.trans h
    rfl
  · exact halted_of_exec (he.symm.trans h) hs
  · exact Eq.trans (frame_of_waitStep (he.symm.trans h) .halted (by simp)) hs

/-- A check on two states that g does not tell apart: if g tells apart neither what the errors leave nor what the rest of the two runs
leaves, it does not tell the ends apart. -/
theorem mapNext_orRaise_congr {α : Type} {g : State → State} (r : Except CoreError α) {s s' : State} {k k' : α → Out}
    (hr : ∀ e, g (s.raised e) = g (s'.raised e)) (hk : ∀ a, mapNext g (k a) = mapNext g (k' a)) :
    mapNext g (orRaise r s k) = mapNext g (orRaise r s' k') := by
  cases r with
  | ok a => exact hk a
  | error e => exact congrArg Host.Outcome.next (hr e)

/-- An instruction does the same whatever halted holds, but for halted (90_conflicts C4). -/
theorem exec_withHalted (i : Instr) (b : Bool) (s : State) :
    mapNext (State.withHalted false) (exec i (s.withHalted b)) = mapNext (State.withHalted false) (exec i s) := by
  cases i with
  | callAddr nnn =>
    rcases exec_callAddr_cases nnn s with ⟨h, e⟩ | ⟨h, e⟩
    · rw [e, exec_callAddr_of_lt (s := s.withHalted b) nnn h]; rfl
    · rw [e, exec_callAddr_of_full (s := s.withHalted b) nnn h]; rfl
  | ret =>
    rcases exec_ret_cases s with ⟨l, w, h, e⟩ | ⟨h, e⟩
    · rw [e, exec_ret_of_concat (s := s.withHalted b) h]; rfl
    · rw [e, exec_ret_of_nil (s := s.withHalted b) h]; rfl
  | skpVx x | sknpVx x | drwVxVy x y n | ldBVx x | ldMemVx x | ldVxMem x =>
    exact mapNext_orRaise_congr _ (fun _ => rfl) fun _ => rfl
  | _ => rfl

theorem waitStep_withHalted (x : RegIx) (b : Bool) (s : State) :
    mapNext (State.withHalted false) (waitStep x (s.withHalted b)) = mapNext (State.withHalted false) (waitStep x s) := by
  unfold waitStep
  rw [show (s.withHalted b).keys = s.keys from rfl]
  cases lowestKey s.keys <;> rfl

theorem coreStep_withHalted (b : Bool) (s : State) :
    mapNext (State.withHalted false) (coreStep (s.withHalted b)) = mapNext (State.withHalted false) (coreStep s) := by
  cases hp : s.pending with
  | some x =>
    rw [coreStep_of_pending hp, coreStep_of_pending (s := s.withHalted b) hp]
    exact waitStep_withHalted x b s
  | none =>
    simp only [coreStep, show (s.withHalted b).pending = none from hp, hp]
    exact mapNext_orRaise_congr (fetchInstr s) (fun _ => rfl) fun i => exec_withHalted i b s

/-- Settles O24: halted is only ever set, and a step differs in nothing but halted where the state before does. -/
theorem haltedNeitherClearedNorRead : Obligations.HaltedNeitherClearedNorRead := by
  intro s t h
  obtain ⟨u, hu, rfl⟩ := tick_next h
  refine ⟨halted_of_coreStep (u := u) hu, fun b => ?_⟩
  obtain ⟨v, hv⟩ := exists_coreStep_next (s.withHalted b)
  have hsame : v.withHalted false = u.withHalted false := by
    simpa [hu, hv, mapNext] using coreStep_withHalted b s
  have hend : (endTick (nextElapsed s) (v.withHalted false)).withHalted u.halted = endTick (nextElapsed s) u := by
    rw [hsame]; rfl
  exact ⟨_, step_of_coreStep hv, hend⟩

/-! ### The key wait -/

/-- Settles O12: the key found is the lowest pressed one, and a key number fits a register. -/
theorem keyWaitTakesLowestKey : Obligations.KeyWaitTakesLowestKey := by
  intro s x k hp hk hlow
  have hlt := keyDown_lt hk
  have hkey : lowestKey s.keys = some k := by
    refine (lowestKey_some s.keys k).mpr ⟨hk, fun j hj => ?_⟩
    have hlen : j < s.keys.toList.length := by rw [Vector.length_toList]; omega
    have hj' := hlow j hj
    rw [keyDown, List.getElem?_eq_getElem hlen] at hj'
    rw [List.getElem?_eq_getElem hlen]
    simpa using hj'
  rcases waitStep_cases x s with ⟨k', hk', e⟩ | ⟨hn, _⟩
  · cases hkey.symm.trans hk'
    refine ⟨_, step_of_coreStep ((coreStep_of_pending hp).trans e), rfl, ?_, rfl, rfl⟩
    simp [Nat.mod_eq_of_lt (show k < 256 by omega)]
  · simp [hkey] at hn

/-- A tick in a wait with no key down changes only the timers, Acc and the tick's own counts. -/
theorem step_of_no_keyDown {s : State} {x : RegIx} (hp : s.pending = some x) (hk : ¬∃ k, keyDown s k) :
    ∃ t, step s = .next t ∧ Frame [.delay, .sound, .acc, .ports] s t ∧ t.pc = s.pc :=
  ⟨_, step_of_coreStep ((coreStep_of_pending hp).trans (waitStep_of_no_keyDown x hk)),
    (frame_finish s s.pc).trans (frame_endTick _ _), rfl⟩

/-- Settles O13: each tick leaves a wait with no key down, so the next one does the same. -/
theorem keyWaitHoldsWithoutKey : Obligations.KeyWaitHoldsWithoutKey := by
  intro n
  induction n with
  | zero => exact fun s x _ _ => ⟨s, rfl, fun p _ => frame_finish s s.pc p List.not_mem_nil, rfl⟩
  | succ n ih =>
    intro s x hp hk
    obtain ⟨u, hu, hframe, hpc⟩ := step_of_no_keyDown hp (not_exists.mpr hk)
    have hkeys : u.keys = s.keys := hframe .keys (by simp)
    obtain ⟨t, ht, hframe', hpc'⟩ := ih u x (Eq.trans (hframe .pending (by simp)) hp) (by simpa [keyDown, hkeys] using hk)
    exact ⟨t, (run_succ hu).trans ht, fun p hp => (hframe p hp).trans (hframe' p hp), hpc'.trans hpc⟩

/-! ### The timer pass -/

theorem decayed_decayed (t : Byte) (j k : Nat) : decayed (decayed t j) k = decayed t (j + k) := by
  refine BitVec.eq_of_toNat_eq ?_
  rw [toNat_decayed, toNat_decayed, toNat_decayed, Nat.sub_sub]

/-- One turn of the loop is one decrement (60_exceptions R285). -/
theorem decrement_eq_decayed (t : Byte) : (if t > 0 then t - 1 else t) = decayed t 1 := by
  refine BitVec.eq_of_toNat_eq ?_
  rw [toNat_decayed]
  split <;> bv_omega

theorem decayLoop_succ (n : Nat) (dt st : Byte) (acc : Nat) :
    decayLoop (n + 1) (dt, st, acc) =
      if acc ≥ 1000000 then decayLoop n (decayed dt 1, decayed st 1, acc - 1000000) else (dt, st, acc) := by
  rw [decayLoop, decrement_eq_decayed, decrement_eq_decayed]

/-- Within one interval the pass decrements nothing and Acc keeps it all. -/
theorem decayed_of_lt (t : Byte) {acc : Nat} (h : acc < 1000000) : decayed t (acc / 1000000) = t := by
  rw [Nat.div_eq_of_lt h]
  exact BitVec.eq_of_toNat_eq (toNat_decayed t 0)

/-- The loop in closed form, with turns enough: the timers lose one per interval, and Acc keeps the rest. -/
theorem decayLoop_eq (n : Nat) (dt st : Byte) (acc : Nat) (h : acc < (n + 1) * 1000000) :
    decayLoop n (dt, st, acc) = (decayed dt (acc / 1000000), decayed st (acc / 1000000), acc % 1000000) := by
  induction n generalizing dt st acc with
  | zero =>
    have hlt : acc < 1000000 := by omega
    rw [decayed_of_lt dt hlt, decayed_of_lt st hlt, Nat.mod_eq_of_lt hlt, decayLoop]
  | succ n ih =>
    rw [decayLoop_succ]
    split
    · have hdiv : acc / 1000000 = 1 + (acc - 1000000) / 1000000 := by omega
      have hmod : acc % 1000000 = (acc - 1000000) % 1000000 := by omega
      rw [ih _ _ _ (by omega), decayed_decayed, decayed_decayed, hdiv, hmod]
    · have hlt : acc < 1000000 := by omega
      rw [decayed_of_lt dt hlt, decayed_of_lt st hlt, Nat.mod_eq_of_lt hlt]

/-- Settles O16: the pass is the loop's closed form on DT, ST and Acc. -/
theorem timerPassIsTheLoop : Obligations.TimerPassIsTheLoop := fun e n s h => decayLoop_eq n s.dt s.st (s.acc + 60 * e) h

/-- Two passes are one pass of the time of both (60_exceptions R285). -/
theorem timerPass_timerPass (a b : Nat) (s : State) : timerPass b (timerPass a s) = timerPass (a + b) s := by
  have hdiv : (s.acc + 60 * a) / 1000000 + ((s.acc + 60 * a) % 1000000 + 60 * b) / 1000000 =
      (s.acc + 60 * (a + b)) / 1000000 := by omega
  have hmod : ((s.acc + 60 * a) % 1000000 + 60 * b) % 1000000 = (s.acc + 60 * (a + b)) % 1000000 := by omega
  simp only [timerPass, decayInterval, decayed_decayed, hdiv, hmod]

theorem timerPass_zero {s : State} (h : s.acc < 1000000) : timerPass 0 s = s := by
  simp only [timerPass, decayInterval, Nat.mul_zero, Nat.add_zero, decayed_of_lt _ h, Nat.mod_eq_of_lt h]

/-- Settles O18: two passes are one, so any number of them is. -/
theorem timerPassSplitsFreely : Obligations.TimerPassSplitsFreely := by
  intro l
  induction l with
  | nil => exact fun s h => (timerPass_zero h).symm
  | cons e l ih =>
    intro s h
    have hacc : (timerPass e s).acc < 1000000 := Nat.mod_lt _ (by decide)
    rw [List.foldl_cons, ih _ hacc, timerPass_timerPass, List.sum_cons]

end Sys2Proof.Machine
end

section
/-! PROOFS, single instructions of 40_control_flow, 41_alu, 42_memory_index, 43_timer_key and 44_display_random. Who writes VF, I and
memory, who reads memory and the keys, and what each instruction writes. Then the statements. -/

namespace Sys2Proof.Machine

/-! ### Jumps, the register copy and the random byte -/

theorem zextAddr_beq_iff (nnn : Addr) (pc : Word) : (zextAddr nnn == pc) = true ↔ nnn.toNat = pc.toNat := by
  rw [beq_iff_eq, BitVec.toNat_eq, toNat_zextAddr]

theorem toNat_zextByte (b : Byte) : (zextByte b).toNat = b.toNat :=
  BitVec.toNat_setWidth_of_le (by decide)

theorem toNat_jumpV0Target (s : State) (nnn : Addr) : (jumpV0Target s nnn).toNat = nnn.toNat + (s.getV 0).toNat := by
  have ha : nnn.toNat < 4096 := nnn.isLt
  have hb : (s.getV 0).toNat < 256 := (s.getV 0).isLt
  rw [jumpV0Target, BitVec.toNat_add_of_lt, toNat_zextAddr, toNat_zextByte]
  rw [toNat_zextAddr, toNat_zextByte]
  omega

/-- Settles O26: JP addr sets halted by the comparison of two addresses as numbers; the target of JP V0,addr does not wrap. -/
theorem jumpsSetPc : Obligations.JumpsSetPc := by
  intro s nnn
  refine ⟨⟨_, jumpTo_eq _ _, rfl, toNat_zextAddr nnn, (frame_haltIf s _).finish _, fun he => ?_, fun hne => ?_⟩,
    _, jumpTo_eq _ _, rfl, toNat_jumpV0Target s nnn, frame_finish s _⟩
  · simp [(zextAddr_beq_iff nnn s.pc).mpr he]
  · simp [Bool.eq_false_iff.mpr (mt (zextAddr_beq_iff nnn s.pc).mp hne)]

/-- Settles O31: it writes one register and no flag. -/
theorem registerCopy : Obligations.RegisterCopy := fun s _ y => advance_setV_next (· = s.getV y) rfl

/-- Settles O46: the register takes the draw and the mask bit by bit, and the counter of draws goes up by one. -/
theorem randomByteMasked : Obligations.RandomByteMasked := by
  intro s x kk
  refine ⟨decode_encode (.rndVxByte x kk), _, rfl, rfl, rfl, ((frame_setV s _ _).trans (frame_countDraw _)).finish _,
    fun j => ?_, fun h => ?_, fun h => ?_, fun y hy => getV_setV_ne s _ hy, rfl⟩
  all_goals rw [State.finish_getV, State.countDraw_getV, getV_setV_same]
  · exact BitVec.getLsbD_and
  · rw [h]; exact BitVec.and_zero
  · rw [h]; exact BitVec.and_allOnes

/-! ### VF -/

theorem eq_of_getV_setV_ne {s : State} {x y : RegIx} {b : Byte} (h : (s.setV x b).getV y ≠ s.getV y) : x = y := by
  by_contra hne
  exact h (getV_setV_ne s b (Ne.symm hne))

theorem eq_of_getV_loadRegs_ne {s : State} {x : RegIx} {m : Memory} {a : Nat}
    (h : (s.setRegs (loadRegs 0 (readBytes m a (x.toNat + 1)) s.v)).getV 0xF ≠ s.getV 0xF) : x = 0xF := by
  have hx : x.toNat < 16 := x.isLt
  rw [getV_setRegs_loadRegs] at h
  split at h
  · rename_i hlt
    rw [length_readBytes] at hlt
    exact BitVec.eq_of_toNat_eq (show x.toNat = 15 by have : (0xF : RegIx).toNat = 15 := rfl; omega)
  · exact absurd rfl h

/-- Settles O35: an instruction that writes no register leaves VF, one that writes V[x] alone writes VF only as V[x], and a block load
reaches VF only as its last register. -/
theorem flagWritersOnly : Obligations.FlagWritersOnly := by
  intro i s t h hne
  have hregs : Part.regs ∈ partsWritten i := by
    by_contra hn
    exact hne (samePart_of_exec h hn (by simp) 0xF)
  cases i with
  | addVxVy x y | subVxVy x y | shrVx x y | subnVxVy x y | shlVx x y => exact .inl ⟨x, y, by simp⟩
  | drwVxVy x y n => exact .inr (.inl ⟨x, y, n, rfl⟩)
  | ldVxByte x kk | addVxByte x kk | rndVxByte x kk =>
    cases h
    obtain rfl := eq_of_getV_setV_ne hne
    exact .inr (.inr (.inl ⟨kk, by simp⟩))
  | ldVxVy x y | orVxVy x y | andVxVy x y | xorVxVy x y =>
    cases h
    obtain rfl := eq_of_getV_setV_ne hne
    exact .inr (.inr (.inr (.inl ⟨y, by simp⟩)))
  | ldVxDt x =>
    cases h
    obtain rfl := eq_of_getV_setV_ne hne
    simp
  | ldVxMem x =>
    rcases exec_ldVxMem_cases x s with ⟨_, e⟩ | ⟨_, e⟩ <;> cases e.symm.trans h
    · obtain rfl := eq_of_getV_loadRegs_ne hne
      simp
    · exact absurd rfl hne
  | _ => simp [partsWritten] at hregs

/-! ### I -/

/-- An instruction that writes I ends Ok past itself, and changes nothing else (42_memory_index R161 to R163). -/
theorem advance_setIndex_next {s : State} {w : Word} {n : Nat} (hw : w.toNat = n) :
    ∃ t, advance (s.setIndex w) = .next t ∧ t.outcome = .ok ∧ t.pc = s.pc + 2 ∧ Frame [.index] s t ∧ t.index.toNat = n :=
  ⟨_, advance_eq _, rfl, rfl, (frame_setIndex s w).finish _, hw⟩

theorem toNat_indexPlus (s : State) (x : RegIx) :
    (indexPlus s x).toNat = (s.index.toNat + (s.getV x).toNat) % 65536 := by
  rw [indexPlus, BitVec.toNat_add, toNat_zextByte]

theorem toNat_glyphBase (b : Byte) : (glyphBase b).toNat = 5 * b.toNat := by
  have hb : b.toNat < 256 := b.isLt
  rw [glyphBase, BitVec.toNat_mul, toNat_zextByte]
  exact Nat.mod_eq_of_lt (show 5 * b.toNat < 65536 by omega)

/-- Settles O36: three instructions have I among what they write, and each writes one number to it. -/
theorem indexWrites : Obligations.IndexWrites := by
  refine ⟨fun i s t h hne => ?_, fun s x nnn => ⟨?_, ?_, ?_⟩⟩
  · have hindex : Part.index ∈ partsWritten i := by
      by_contra hn
      exact hne (samePart_of_exec h hn (by simp))
    cases i with
    | ldIAddr nnn => exact .inl ⟨nnn, rfl⟩
    | addIVx x | ldFVx x => exact .inr ⟨x, by simp⟩
    | _ => simp [partsWritten] at hindex
  · exact advance_setIndex_next (toNat_zextAddr nnn)
  · exact advance_setIndex_next (toNat_indexPlus s x)
  · exact advance_setIndex_next (toNat_glyphBase (s.getV x))

/-! ### Blocks of memory -/

/-- Settles O37: the block fits, so each digit is read back at its own place, and each digit is below 256. -/
theorem bcdDigitsStored : Obligations.BcdDigitsStored := by
  intro s x hm hle
  have hb : blockAddr s = s.index.toNat := rfl
  have hv : (s.getV x).toNat < 256 := (s.getV x).isLt
  have hlen : (bcdDigits (s.getV x)).length = 3 := rfl
  rcases exec_ldBVx_cases x s with ⟨hfit, e⟩ | ⟨hgt, _⟩
  · have hread := fun k hk => congrArg BitVec.toNat (memRead_writeBytes_in hm (bs := bcdDigits (s.getV x)) hfit (k := k) hk)
    refine ⟨_, e, rfl, rfl, (frame_setMem s _).finish _, (hread 0 (by omega)).trans ?_, (hread 1 (by omega)).trans ?_,
      (hread 2 (by omega)).trans ?_, fun a ha => memRead_writeBytes_out s.mem _ (by omega)⟩
    all_goals
      refine (BitVec.toNat_ofNat _ 8).trans (Nat.mod_eq_of_lt ?_)
      omega
  · omega

/-- Settles O40: a store that raised nothing fits, so the load fits too, and each register up to x reads the byte stored for it. -/
theorem blockLoadInvertsStore : Obligations.BlockLoadInvertsStore := by
  intro s t u x hm h ho hum hui
  obtain ⟨-, hfit, hout⟩ := registerBlockStored s x hm
  have hle : s.index.toNat + x.toNat ≤ 0xFFF := by
    by_contra hgt
    obtain ⟨t', ht', ho', -⟩ := hout (by omega)
    cases ht'.symm.trans h
    simp [ho'] at ho
  obtain ⟨t', ht', -, -, -, hstored, -⟩ := hfit hle
  cases ht'.symm.trans h
  obtain ⟨-, hload, -⟩ := registerBlockLoaded u x
  obtain ⟨v, hv, hov, -, -, hloaded, -⟩ := hload (hui ▸ hle)
  refine ⟨v, hv, hov, fun i hi => ?_⟩
  have haddr : blockAddr u = blockAddr s := congrArg BitVec.toNat hui
  rw [hloaded i hi, hum, haddr, hstored i hi]

/-! ### Who reaches memory and the keys -/

/-- Memory, entry for entry, is what an instruction that stores nothing leaves. -/
theorem mem_of_exec {i : Instr} {s t : State} (hb : ∀ x, i ≠ .ldBVx x) (hm : ∀ x, i ≠ .ldMemVx x)
    (h : exec i s = .next t) : t.mem = s.mem := by
  cases i with
  | ldBVx x => exact absurd rfl (hb x)
  | ldMemVx x => exact absurd rfl (hm x)
  | callAddr nnn => rcases exec_callAddr_cases nnn s with ⟨_, e⟩ | ⟨_, e⟩ <;> cases e.symm.trans h <;> rfl
  | ret => rcases exec_ret_cases s with ⟨_, _, _, e⟩ | ⟨_, e⟩ <;> cases e.symm.trans h <;> rfl
  | skpVx x => rcases exec_skpVx_cases x s with ⟨_, e⟩ | ⟨_, e⟩ <;> cases e.symm.trans h <;> rfl
  | sknpVx x => rcases exec_sknpVx_cases x s with ⟨_, e⟩ | ⟨_, e⟩ <;> cases e.symm.trans h <;> rfl
  | drwVxVy x y n => rcases exec_drwVxVy_cases x y n s with ⟨_, e⟩ | ⟨_, _, e⟩ <;> cases e.symm.trans h <;> rfl
  | ldVxMem x => rcases exec_ldVxMem_cases x s with ⟨_, e⟩ | ⟨_, e⟩ <;> cases e.symm.trans h <;> rfl
  | _ => cases h; rfl

section

/-! CALL and RET on a state changed by f: if f leaves the stack and PC, and what they end with carries the change along, so do they. -/

variable {f : State → State} {s : State} (hstack : (f s).stack = s.stack) (hpc : (f s).pc = s.pc)
  (hset : ∀ l w, ((f s).setStack l).finish w = f ((s.setStack l).finish w)) (hr : ∀ e, (f s).raised e = f (s.raised e))
include hstack hpc hset hr

theorem exec_callAddr_mapNext (nnn : Addr) : exec (.callAddr nnn) (f s) = mapNext f (exec (.callAddr nnn) s) := by
  rcases exec_callAddr_cases nnn s with ⟨h, e⟩ | ⟨h, e⟩
  · rw [e, exec_callAddr_of_lt nnn (by rwa [hstack]), hstack, hpc, hset]; rfl
  · rw [e, exec_callAddr_of_full nnn (by rwa [hstack]), hpc, hr]; rfl

theorem exec_ret_mapNext : exec .ret (f s) = mapNext f (exec .ret s) := by
  rcases exec_ret_cases s with ⟨l, w, h, e⟩ | ⟨h, e⟩
  · rw [e, exec_ret_of_concat (hstack.trans h), hset]; rfl
  · rw [e, exec_ret_of_nil (hstack.trans h), hpc, hr]; rfl

end

/-- The four instructions that read or write memory beside the fetch (20_memory section 1). -/
def namesMemory : Instr → Bool
  | .ldBVx _ | .ldMemVx _ | .ldVxMem _ | .drwVxVy .. => true
  | _ => false

/-- An instruction that names no memory does the same whatever memory holds, and carries it along. -/
theorem exec_setMem {i : Instr} (hi : namesMemory i = false) (m : Memory) (s : State) :
    exec i (s.setMem m) = mapNext (State.setMem · m) (exec i s) := by
  cases i with
  | ldBVx | ldMemVx | ldVxMem | drwVxVy => cases hi
  | callAddr nnn => exact exec_callAddr_mapNext (f := (State.setMem · m)) rfl rfl (fun _ _ => rfl) (fun _ => rfl) nnn
  | ret => exact exec_ret_mapNext (f := (State.setMem · m)) rfl rfl (fun _ _ => rfl) fun _ => rfl
  | skpVx x | sknpVx x => exact orRaise_mapNext (f := (State.setMem · m)) (fun _ => rfl) fun _ => rfl
  | _ => rfl

/-- The key states replaced. -/
def State.withKeys (k : Vector Bool 16) (s : State) : State := { s with keys := k }

/-- An instruction other than SKP and SKNP does the same whatever keys are pressed, and carries the key states along. -/
theorem exec_withKeys {i : Instr} (hp : ∀ x, i ≠ .skpVx x) (hn : ∀ x, i ≠ .sknpVx x) (k : Vector Bool 16) (s : State) :
    exec i (s.withKeys k) = mapNext (State.withKeys k) (exec i s) := by
  cases i with
  | skpVx x => exact absurd rfl (hp x)
  | sknpVx x => exact absurd rfl (hn x)
  | callAddr nnn => exact exec_callAddr_mapNext rfl rfl (fun _ _ => rfl) (fun _ => rfl) nnn
  | ret => exact exec_ret_mapNext rfl rfl (fun _ _ => rfl) fun _ => rfl
  | drwVxVy | ldBVx | ldMemVx | ldVxMem => exact orRaise_mapNext (fun _ => rfl) fun _ => rfl
  | _ => rfl

/-- Settles O41: an instruction that names no memory carries any memory along, and one that names no key any key states. -/
theorem memoryAndKeysReachedOnlyByTheirInstructions : Obligations.MemoryAndKeysReachedOnlyByTheirInstructions := by
  refine ⟨fun i s hb hm => ⟨fun t => mem_of_exec hb hm, fun hl hd m => exec_setMem ?_ m s⟩,
    fun i s k hp hn => exec_withKeys hp hn k s⟩
  cases i with
  | ldBVx x => exact absurd rfl (hb x)
  | ldMemVx x => exact absurd rfl (hm x)
  | ldVxMem x => exact absurd rfl (hl x)
  | drwVxVy x y n => exact absurd rfl (hd x y n)
  | _ => rfl

/-! ### SKP and SKNP -/

/-- A skip on one key ends with PC by whether the key that Vx names is pressed (43_timer_key R184, R185). -/
theorem pc_of_keySkip {s : State} {k : Nat} (h : k < 16) (p q : Word) :
    (keyDown s k → (if s.keys[k] then p else q) = p) ∧ (¬keyDown s k → (if s.keys[k] then p else q) = q) := by
  have hk : keyDown s k ↔ s.keys[k] = true := by simp [keyDown, h]
  rw [hk]
  exact ⟨fun hd => if_pos hd, fun hn => if_neg hn⟩

/-- Settles O44: the key that Vx names is pressed or not, and a byte above 15 names none. -/
theorem keySkips : Obligations.KeySkips := by
  intro s x
  refine ⟨fun hle => ?_, fun hgt i hi => ?_⟩
  · rcases readKey_cases s (s.getV x) with ⟨hlt, hr⟩ | ⟨hgt, _⟩
    · refine ⟨⟨_, exec_skpVx_of_readKey hr, rfl, frame_finish s _, pc_of_keySkip hlt _ _⟩,
        ⟨_, exec_sknpVx_of_readKey hr, rfl, frame_finish s _, ?_⟩⟩
      simpa using pc_of_keySkip hlt (s.pc + 2) (s.pc + 4)
    · omega
  · refine ⟨s.raised (.outOfRangeAccess (.key (s.getV x))), ?_, rfl, rfl, frame_raised s _⟩
    rcases hi with rfl | rfl
    · rcases exec_skpVx_cases x s with ⟨hlt, _⟩ | ⟨_, e⟩
      · omega
      · exact e
    · rcases exec_sknpVx_cases x s with ⟨hlt, _⟩ | ⟨_, e⟩
      · omega
      · exact e

/-! ### CLS -/

theorem pixel_blank (r c : Nat) : pixel Display.blank r c = false := by
  simp [pixel, Display.blank]

/-- Settles O47: CLS replaces the grid and the flag by what its parameter says. -/
theorem clsUnderItsParameter : Obligations.ClsUnderItsParameter := by
  intro s
  refine ⟨_, rfl, rfl, rfl, (frame_setFrame s _ _).finish _, fun hc => ⟨?_, fun r _ c _ => ?_⟩, fun hc => ⟨?_, ?_⟩⟩
  · simp [hc]
  · simp [hc, pixel_blank]
  · simp [hc]
  · simp [hc]

end Sys2Proof.Machine
end

section
/-! PROOFS, 44_display_random section 1. The blit as one XOR: each pixel of it flips at most one cell, no two of its pixels meet one
cell, so the whole flips exactly the cells the sprite covers and collides exactly where a covered cell was set. Then the statements. -/

namespace Sys2Proof.Machine

/-! ### Flipping a set of cells -/

/-- From p to q exactly the cells of the set C have flipped, and the collision has been noted if one of them was set
(44_display_random R202). -/
structure Flips (C : Nat → Nat → Prop) (p q : Display × Bool) : Prop where
  covered : ∀ r < 32, ∀ c < 64, C r c → pixel q.1 r c = !pixel p.1 r c
  other : ∀ r < 32, ∀ c < 64, ¬C r c → pixel q.1 r c = pixel p.1 r c
  collision : q.2 = true ↔ p.2 = true ∨ ∃ r < 32, ∃ c < 64, pixel p.1 r c = true ∧ C r c

theorem Flips.congr {C D : Nat → Nat → Prop} {p q : Display × Bool} (h : Flips C p q)
    (hCD : ∀ r < 32, ∀ c < 64, C r c ↔ D r c) : Flips D p q where
  covered r hr c hc hD := h.covered r hr c hc ((hCD r hr c hc).mpr hD)
  other r hr c hc hD := h.other r hr c hc (mt (hCD r hr c hc).mp hD)
  collision := h.collision.trans <| or_congr_right
    ⟨fun ⟨r, hr, c, hc, hs, hC⟩ => ⟨r, hr, c, hc, hs, (hCD r hr c hc).mp hC⟩,
      fun ⟨r, hr, c, hc, hs, hD⟩ => ⟨r, hr, c, hc, hs, (hCD r hr c hc).mpr hD⟩⟩

theorem Flips.nothing (p : Display × Bool) : Flips (fun _ _ => False) p p where
  covered _ _ _ _ h := h.elim
  other _ _ _ _ _ := rfl
  collision := by simp

/-- Flipping one set and then another that shares no cell with it flips both. -/
theorem Flips.trans {C D : Nat → Nat → Prop} {p q u : Display × Bool} (h : Flips C p q) (h' : Flips D q u)
    (hdisj : ∀ r < 32, ∀ c < 64, C r c → ¬D r c) : Flips (fun r c => C r c ∨ D r c) p u where
  covered r hr c hc hCD := by
    by_cases hC : C r c
    · rw [h'.other r hr c hc (hdisj r hr c hc hC), h.covered r hr c hc hC]
    · rw [h'.covered r hr c hc (hCD.resolve_left hC), h.other r hr c hc hC]
  other r hr c hc hn := by
    rw [h'.other r hr c hc fun hD => hn (.inr hD), h.other r hr c hc fun hC => hn (.inl hC)]
  collision := by
    have hq : ∀ r < 32, ∀ c < 64, D r c → pixel q.1 r c = pixel p.1 r c := fun r hr c hc hD =>
      h.other r hr c hc fun hC => hdisj r hr c hc hC hD
    rw [h'.collision, h.collision, or_assoc]
    refine or_congr_right ⟨?_, ?_⟩
    · rintro (⟨r, hr, c, hc, hs, hC⟩ | ⟨r, hr, c, hc, hs, hD⟩)
      · exact ⟨r, hr, c, hc, hs, .inl hC⟩
      · exact ⟨r, hr, c, hc, hq r hr c hc hD ▸ hs, .inr hD⟩
    · rintro ⟨r, hr, c, hc, hs, hC | hD⟩
      · exact .inl ⟨r, hr, c, hc, hs, hC⟩
      · exact .inr ⟨r, hr, c, hc, (hq r hr c hc hD).trans hs, hD⟩

/-! ### The blit -/

/-- The cell that bit 7-j of a sprite byte at row r, column x0 lies on, if the bit is set (44_display_random R202, R204). -/
def BitCovers (x0 r : Nat) (b : Byte) (j : Nat) (r' c' : Nat) : Prop :=
  r % 32 = r' ∧ (x0 + j) % 64 = c' ∧ b.getLsbD (7 - j) = true

theorem flips_blitPixel (x0 r : Nat) (b : Byte) (p : Display × Bool) (j : Nat) :
    Flips (BitCovers x0 r b j) p (blitPixel x0 r b p j) where
  covered r' hr' c' hc' := by
    rintro ⟨h1, h2, hb⟩
    rw [pixel_blitPixel, if_pos ⟨h1.trans (Nat.mod_eq_of_lt hr').symm, h2.trans (Nat.mod_eq_of_lt hc').symm⟩, hb,
      Bool.xor_true]
  other r' hr' c' hc' hn := by
    rw [pixel_blitPixel, Nat.mod_eq_of_lt hr', Nat.mod_eq_of_lt hc']
    split
    · rename_i h
      have hb : b.getLsbD (7 - j) = false := Bool.eq_false_iff.mpr fun hb => hn ⟨h.1, h.2, hb⟩
      rw [hb, Bool.xor_false]
    · rfl
  collision := by
    have hmod : pixel p.1 (r % 32) ((x0 + j) % 64) = pixel p.1 r (x0 + j) := by simp [pixel]
    rw [collision_blitPixel, Bool.or_eq_true, Bool.and_eq_true, ← hmod]
    refine or_congr_right ⟨fun ⟨hs, hb⟩ => ?_, ?_⟩
    · exact ⟨_, Nat.mod_lt _ (by decide), _, Nat.mod_lt _ (by decide), hs, rfl, rfl, hb⟩
    · rintro ⟨r', _, c', _, hs, rfl, rfl, hb⟩
      exact ⟨hs, hb⟩

/-- Some pixels of one row: no two of them meet one cell, since a row of the sprite is narrower than the grid. -/
theorem flips_foldl_blitPixel (x0 r : Nat) (b : Byte) (js : List Nat) (hlt : ∀ j ∈ js, j < 8) (hnd : js.Nodup)
    (p : Display × Bool) : Flips (fun r' c' => ∃ j ∈ js, BitCovers x0 r b j r' c') p (js.foldl (blitPixel x0 r b) p) := by
  induction js generalizing p with
  | nil => exact (Flips.nothing p).congr (by simp)
  | cons j js ih =>
    rw [List.nodup_cons] at hnd
    rw [List.forall_mem_cons] at hlt
    refine ((flips_blitPixel x0 r b p j).trans (ih hlt.2 hnd.2 _) ?_).congr (by simp)
    rintro r' hr' c' hc' ⟨_, hc, _⟩ ⟨k, hk, _, hc'', _⟩
    have hkj : k = j := by have := hlt.1; have := hlt.2 k hk; omega
    exact hnd.1 (hkj ▸ hk)

theorem flips_blitRow (x0 r : Nat) (b : Byte) (p : Display × Bool) :
    Flips (fun r' c' => ∃ j < 8, BitCovers x0 r b j r' c') p (blitRow x0 r b p) :=
  (flips_foldl_blitPixel x0 r b [0, 1, 2, 3, 4, 5, 6, 7] (by decide) (by decide) p).congr fun r' _ c' _ =>
    exists_congr fun j => and_congr_left' (by simp; omega)

/-- The cells that the rows of a sprite from row r down cover. -/
def RowsCover (x0 r : Nat) (sprite : List Byte) (r' c' : Nat) : Prop :=
  ∃ i b, sprite[i]? = some b ∧ ∃ j < 8, BitCovers x0 (r + i) b j r' c'

theorem rowsCover_cons (x0 r : Nat) (b : Byte) (bs : List Byte) (r' c' : Nat) :
    RowsCover x0 r (b :: bs) r' c' ↔ (∃ j < 8, BitCovers x0 r b j r' c') ∨ RowsCover x0 (r + 1) bs r' c' := by
  constructor
  · rintro ⟨i, b', hi, h⟩
    cases i with
    | zero => cases hi; exact .inl h
    | succ i => exact .inr ⟨i, b', hi, by rwa [Nat.add_assoc, Nat.add_comm 1 i]⟩
  · rintro (h | ⟨i, b', hi, h⟩)
    · exact ⟨0, b, rfl, h⟩
    · exact ⟨i + 1, b', hi, by rwa [Nat.add_comm i 1, ← Nat.add_assoc]⟩

/-- The rows of a sprite no higher than the grid: no two of them meet one cell. -/
theorem flips_blitRows (x0 r : Nat) (sprite : List Byte) (hlen : sprite.length ≤ 32) (p : Display × Bool) :
    Flips (RowsCover x0 r sprite) p (blitRows x0 r sprite p) := by
  induction sprite generalizing r p with
  | nil => exact (Flips.nothing p).congr (by simp [RowsCover])
  | cons b bs ih =>
    rw [List.length_cons] at hlen
    refine ((flips_blitRow x0 r b p).trans (ih (r + 1) (by omega) _) ?_).congr fun r' _ c' _ =>
      (rowsCover_cons x0 r b bs r' c').symm
    rintro r' hr' c' hc' ⟨_, _, hr, _⟩ ⟨i, b', hi, _, _, hr'', _⟩
    obtain ⟨hlt, _⟩ := List.getElem?_eq_some_iff.mp hi
    omega

theorem spriteCovers_iff (x0 y0 : Byte) (sprite : List Byte) (r c : Nat) :
    SpriteCovers x0 y0 sprite r c ↔ RowsCover x0.toNat y0.toNat sprite r c := by
  constructor
  · rintro ⟨i, j, b, hi, hj, hr, hc, hb⟩
    exact ⟨i, b, hi, j, hj, hr, hc, hb⟩
  · rintro ⟨i, b, hi, j, hj, hr, hc, hb⟩
    exact ⟨i, j, b, hi, hj, hr, hc, hb⟩

/-- The cells that the sprite of a DRW covers. -/
def DrawCovers (x y : RegIx) (n : Nibble) (s : State) : Nat → Nat → Prop :=
  SpriteCovers (s.getV x) (s.getV y) (readBytes s.mem (blockAddr s) n.toNat)

/-- A DRW flips the cells its sprite covers, and collides where one of them was set (44_display_random R202, R205). -/
theorem flips_drawn (x y : RegIx) (n : Nibble) (s : State) :
    Flips (DrawCovers x y n s) (s.disp, false) (drawn x y n s) := by
  have hlen : (readBytes s.mem (blockAddr s) n.toNat).length ≤ 32 := by
    have hn : n.toNat < 16 := n.isLt
    rw [length_readBytes]; omega
  exact (flips_blitRows _ _ _ hlen _).congr fun r _ c _ => (spriteCovers_iff _ _ _ r c).symm

theorem collision_drawn (x y : RegIx) (n : Nibble) (s : State) :
    (drawn x y n s).2 = true ↔ ∃ r < 32, ∃ c < 64, pixel s.disp r c = true ∧ DrawCovers x y n s r c := by
  simpa using (flips_drawn x y n s).collision

/-! ### DRW -/

/-- The state a DRW leaves when it draws (44_display_random R205). -/
def drawnState (x y : RegIx) (n : Nibble) (s : State) : State :=
  ((s.setFrame (drawn x y n s).1 true).setFlag (drawn x y n s).2).finish (s.pc + 2)

theorem exec_drwVxVy_of_fits (x y : RegIx) {n : Nibble} {s : State} (h : n.toNat = 0 ∨ blockAddr s + n.toNat ≤ 4096) :
    exec (.drwVxVy x y n) s = .next (drawnState x y n s) := by
  rcases exec_drwVxVy_cases x y n s with ⟨_, e⟩ | ⟨hn, hgt, _⟩
  · exact e
  · omega

theorem drawnState_of_ok {x y : RegIx} {n : Nibble} {s t : State} (h : exec (.drwVxVy x y n) s = .next t)
    (ho : t.outcome = .ok) : (n.toNat = 0 ∨ blockAddr s + n.toNat ≤ 4096) ∧ t = drawnState x y n s := by
  rcases exec_drwVxVy_cases x y n s with ⟨hfit, e⟩ | ⟨_, _, e⟩ <;> cases e.symm.trans h
  · exact ⟨hfit, rfl⟩
  · simp at ho

@[simp] theorem drawnState_disp (x y : RegIx) (n : Nibble) (s : State) : (drawnState x y n s).disp = (drawn x y n s).1 := rfl

theorem getV_drawnState (x y z : RegIx) (n : Nibble) (s : State) :
    (drawnState x y n s).getV z = if z = 0xF then flagByte (drawn x y n s).2 else s.getV z := by
  simp [drawnState]

theorem flagByte_eq_one_iff (f : Bool) : flagByte f = 1 ↔ f = true := by cases f <;> decide

theorem flagByte_eq_zero_iff (f : Bool) : flagByte f = 0 ↔ ¬f = true := by cases f <;> decide

/-- VF after a DRW is 1 exactly when a covered cell was set, and else 0 (44_display_random R205). -/
theorem vf_drawnState (x y : RegIx) (n : Nibble) (s : State) :
    ((drawnState x y n s).getV 0xF = 1 ↔ ∃ r < 32, ∃ c < 64, pixel s.disp r c = true ∧ DrawCovers x y n s r c) ∧
      ((drawnState x y n s).getV 0xF = 0 ↔ ¬∃ r < 32, ∃ c < 64, pixel s.disp r c = true ∧ DrawCovers x y n s r c) := by
  rw [getV_drawnState, if_pos rfl, flagByte_eq_one_iff, flagByte_eq_zero_iff, collision_drawn]
  exact ⟨Iff.rfl, Iff.rfl⟩

/-- Settles O48: the blit is one flip of the covered cells, and the rest is the frame of the instruction. -/
theorem drawXorsSpriteAndReportsErasure : Obligations.DrawXorsSpriteAndReportsErasure := by
  intro s x y n h
  have hfit : n.toNat = 0 ∨ blockAddr s + n.toNat ≤ 4096 := h.imp_left (congrArg BitVec.toNat)
  obtain ⟨hcov, hoth, -⟩ := flips_drawn x y n s
  obtain ⟨hone, hzero⟩ := vf_drawnState x y n s
  refine ⟨_, exec_drwVxVy_of_fits x y hfit, rfl, rfl, rfl, ?_, fun r hr c hc => ⟨hcov r hr c hc, hoth r hr c hc⟩,
    hone.mpr, hzero.mpr, fun z hz => (getV_drawnState x y z n s).trans (if_neg hz)⟩
  exact fun p hp => (((frame_setFrame s _ _).trans (frame_setFlag _ _)).finish _) p (by simp_all)

/-- A cell went from set to unset exactly when it was set and covered. -/
theorem erased_iff (x y : RegIx) (n : Nibble) (s : State) {r c : Nat} (hr : r < 32) (hc : c < 64) :
    (pixel s.disp r c = true ∧ pixel (drawnState x y n s).disp r c = false) ↔
      (pixel s.disp r c = true ∧ DrawCovers x y n s r c) := by
  obtain ⟨hcov, hoth, -⟩ := flips_drawn x y n s
  rw [drawnState_disp]
  refine and_congr_right fun hs => ?_
  by_cases hC : DrawCovers x y n s r c
  · simpa [hC, hs] using hcov r hr c hc hC
  · simpa [hC, hs] using hoth r hr c hc hC

/-- Settles O49: VF says whether a covered cell was set, and those are the cells that went from set to unset. -/
theorem collisionMeansErasure : Obligations.CollisionMeansErasure := by
  intro s t x y n h ho
  obtain ⟨-, rfl⟩ := drawnState_of_ok h ho
  obtain ⟨hone, hzero⟩ := vf_drawnState x y n s
  refine ⟨?_, hone.trans ?_⟩
  · rw [hone, hzero]; exact em _
  · constructor
    · rintro ⟨r, hr, c, hc, he⟩; exact ⟨r, hr, c, hc, (erased_iff x y n s hr hc).mpr he⟩
    · rintro ⟨r, hr, c, hc, he⟩; exact ⟨r, hr, c, hc, (erased_iff x y n s hr hc).mp he⟩

/-- A second DRW of the same instruction has the place, the bytes and so the cells of the first, where VF is neither coordinate. -/
theorem drawCovers_drawnState {x y : RegIx} (n : Nibble) (s : State) (hx : x ≠ 0xF) (hy : y ≠ 0xF) :
    DrawCovers x y n (drawnState x y n s) = DrawCovers x y n s := by
  unfold DrawCovers
  rw [getV_drawnState, getV_drawnState, if_neg hx, if_neg hy]
  rfl

theorem disp_drawnState_twice {x y : RegIx} (n : Nibble) (s : State) (hx : x ≠ 0xF) (hy : y ≠ 0xF) :
    (drawnState x y n (drawnState x y n s)).disp = s.disp := by
  obtain ⟨hcov, hoth, -⟩ := flips_drawn x y n s
  obtain ⟨hcov', hoth', -⟩ := drawCovers_drawnState n s hx hy ▸ flips_drawn x y n (drawnState x y n s)
  refine display_ext fun r hr c hc => ?_
  by_cases hC : DrawCovers x y n s r c
  · exact (hcov' r hr c hc hC).trans (by rw [drawnState_disp, hcov r hr c hc hC, Bool.not_not])
  · exact (hoth' r hr c hc hC).trans (hoth r hr c hc hC)

/-- On a blank grid a DRW sets covered cells only. -/
theorem drawCovers_of_pixel {x y : RegIx} {n : Nibble} {s : State} (hs : s.disp = Display.blank) {r c : Nat} (hr : r < 32)
    (hc : c < 64) (hset : pixel (drawnState x y n s).disp r c = true) : DrawCovers x y n s r c := by
  by_contra hC
  have hsame := (flips_drawn x y n s).other r hr c hc hC
  rw [drawnState_disp, hsame, hs, pixel_blank] at hset
  cases hset

theorem ne_blank_iff (d : Display) : d ≠ Display.blank ↔ ∃ r < 32, ∃ c < 64, pixel d r c = true := by
  constructor
  · intro hne
    by_contra hn
    refine hne (display_ext fun r hr c hc => ?_)
    rw [pixel_blank]
    exact Bool.eq_false_iff.mpr fun hset => hn ⟨r, hr, c, hc, hset⟩
  · rintro ⟨r, _, c, _, hset⟩ rfl
    simp [pixel_blank] at hset

/-- Settles O50: the two draws flip the same cells; on a blank grid the cells set after the first are those it covers. -/
theorem drawTwiceRestoresGrid : Obligations.DrawTwiceRestoresGrid := by
  intro s t x y n hx hy h ho
  obtain ⟨hfit, rfl⟩ := drawnState_of_ok h ho
  refine ⟨_, exec_drwVxVy_of_fits x y (s := drawnState x y n s) hfit, rfl, disp_drawnState_twice n s hx hy, fun hblank => ?_⟩
  rw [(vf_drawnState x y n (drawnState x y n s)).1, drawCovers_drawnState n s hx hy, ne_blank_iff]
  constructor
  · rintro ⟨r, hr, c, hc, hset, _⟩; exact ⟨r, hr, c, hc, hset⟩
  · rintro ⟨r, hr, c, hc, hset⟩; exact ⟨r, hr, c, hc, hset, drawCovers_of_pixel hblank hr hc hset⟩

/-! ### Who writes the display -/

theorem frame_notMem_partsWritten {i : Instr} (hd : ∀ x y n, i ≠ .drwVxVy x y n) (hc : i ≠ .cls) :
    Part.display ∉ partsWritten i ∧ Part.dirty ∉ partsWritten i := by
  cases i with
  | cls => exact absurd rfl hc
  | drwVxVy x y n => exact absurd rfl (hd x y n)
  | _ => simp [partsWritten]

theorem dirty_of_exec {i : Instr} {s t : State} (h : exec i s = .next t) (hs : s.dirty = true) : t.dirty = true := by
  rcases exec_next h with hc | ⟨e, rfl⟩
  · cases i with
    | cls => cases h; simp [hs]
    | drwVxVy x y n => exact dirty_of_drwVxVy_ok h hc.outcome
    | _ => exact Eq.trans (hc.frame .dirty (by simp [partsWritten])) hs
  · exact hs

theorem dirty_of_coreStep {s u : State} (h : coreStep s = .next u) (hs : s.dirty = true) : u.dirty = true := by
  rcases coreStep_cases s with ⟨_, e, _, he⟩ | ⟨_, i, _, he⟩ | ⟨x, _, he⟩
  · cases he.symm.trans h
    exact hs
  · exact dirty_of_exec (he.symm.trans h) hs
  · exact Eq.trans (frame_of_waitStep (he.symm.trans h) .dirty (by simp)) hs

/-- Settles O51: only DRW and CLS have the grid and the flag among what they write, and both only set the flag. -/
theorem displayWrittenOnlyByDrawAndCls : Obligations.DisplayWrittenOnlyByDrawAndCls := by
  refine ⟨fun i s t hd hc h => ?_, fun s t h hs => ?_⟩
  · obtain ⟨hdisp, hdirty⟩ := frame_notMem_partsWritten hd hc
    exact ⟨samePart_of_exec h hdisp (by simp), samePart_of_exec h hdirty (by simp)⟩
  · obtain ⟨u, hu, rfl⟩ := tick_next h
    exact dirty_of_coreStep (u := u) hu hs

end Sys2Proof.Machine
end

section
/-! PROOFS, 10_state, 70_reset_and_hazards. The invariant: at reset, by every step and by every host action. What reset leaves, the
program load, and memory until the first tick. Then the statements. -/

namespace Sys2Proof.Machine

/-! ### The invariant, by every step -/

theorem mem_wf_of_exec {i : Instr} {s t : State} (hm : s.mem.wf) (h : exec i s = .next t) : t.mem.wf := by
  by_cases hb : ∃ x, i = .ldBVx x
  · obtain ⟨x, rfl⟩ := hb
    rcases exec_ldBVx_cases x s with ⟨hfit, e⟩ | ⟨_, e⟩ <;> cases e.symm.trans h
    · exact writeBytes_wf (bs := bcdDigits (s.getV x)) hm hfit
    · exact hm
  by_cases hr : ∃ x, i = .ldMemVx x
  · obtain ⟨x, rfl⟩ := hr
    rcases exec_ldMemVx_cases x s with ⟨hfit, e⟩ | ⟨_, e⟩ <;> cases e.symm.trans h
    · exact writeBytes_wf hm (by rwa [length_regBlock])
    · exact hm
  rw [mem_of_exec (not_exists.mp hb) (not_exists.mp hr) h]
  exact hm

/-- What the invariant says of the call stack (10_state R25, R30). -/
def StackOk (l : List Word) : Prop := l.length ≤ 16 ∧ ∀ w ∈ l, w.toNat ≤ 0x1000

theorem toNat_nextPc {pc : Word} (h : pc.toNat ≤ 0xFFE) : (pc + 2).toNat = pc.toNat + 2 :=
  BitVec.toNat_add_of_lt (show pc.toNat + 2 < 65536 by omega)

/-- CALL pushes an address of memory's end at most, on a stack that has room; RET pops (10_state R33). -/
theorem stackOk_of_exec {i : Instr} {s t : State} (hs : StackOk s.stack) (hpc : s.pc.toNat ≤ 0xFFE)
    (h : exec i s = .next t) : StackOk t.stack := by
  obtain ⟨hlen, hret⟩ := hs
  by_cases hc : ∃ nnn, i = .callAddr nnn
  · obtain ⟨nnn, rfl⟩ := hc
    rcases exec_callAddr_cases nnn s with ⟨hlt, e⟩ | ⟨_, e⟩ <;> cases e.symm.trans h
    · refine ⟨by simpa using hlt, fun w hw => ?_⟩
      rcases List.mem_append.mp hw with hw | hw
      · exact hret w hw
      · rw [List.mem_singleton.mp hw, toNat_nextPc hpc]; omega
    · exact ⟨hlen, hret⟩
  by_cases hr : i = .ret
  · obtain rfl := hr
    rcases exec_ret_cases s with ⟨l, w, hl, e⟩ | ⟨_, e⟩ <;> cases e.symm.trans h
    · rw [hl, List.length_append] at hlen
      rw [hl] at hret
      exact ⟨Nat.le_of_add_right_le hlen, fun w' hw => hret w' (List.mem_append_left _ hw)⟩
    · exact ⟨hlen, hret⟩
  rw [stack_of_exec (not_exists.mp hc) hr h]
  exact ⟨hlen, hret⟩

/-- Where an instruction fetched from memory can go: an address field, V0 above one, a return address, or the next words
(10_state R24, R25). -/
theorem pcAfter_le {i : Instr} {s : State} (hs : StackOk s.stack) (hpc : s.pc.toNat ≤ 0xFFE) :
    (pcAfter i s).toNat ≤ 0x10FE := by
  have hnext := toNat_nextPc hpc
  have hskip := (toNat_skipTarget hpc).2
  cases i with
  | jpAddr nnn | callAddr nnn =>
    have hn := toNat_zextAddr nnn
    have := nnn.isLt
    exact (show (zextAddr nnn).toNat ≤ 0x10FE by omega)
  | jpV0Addr nnn =>
    have hj := toNat_jumpV0Target s nnn
    have := nnn.isLt
    have := (s.getV 0).isLt
    exact (show (jumpV0Target s nnn).toNat ≤ 0x10FE by omega)
  | ret =>
    have hmem : s.stack.getLastD s.pc ∈ s.pc :: s.stack := List.getLastD_mem_cons
    show (s.stack.getLastD s.pc).toNat ≤ 0x10FE
    rcases List.mem_cons.mp hmem with heq | hmem
    · rw [heq]; omega
    · exact (hs.2 _ hmem).trans (by decide)
  | ldVxK x => exact hpc.trans (by decide)
  | seVxByte | sneVxByte | seVxVy | sneVxVy | skpVx | sknpVx =>
    simp only [pcAfter]
    split <;> omega
  | _ => exact (show (s.pc + 2).toNat ≤ 0x10FE by omega)

/-- An error keeps the invariant: halted is set (60_exceptions R266). -/
theorem inv_raised {s : State} (h : MachineInv s) (e : CoreError) : MachineInv (s.raised e) where
  memCanonical := h.memCanonical
  stackBounded := h.stackBounded
  returnsBounded := h.returnsBounded
  pcBounded := h.pcBounded
  pendingFetched := h.pendingFetched
  accBounded := h.accBounded
  errorHalts _ := rfl

theorem inv_endTick {s : State} (h : MachineInv s) (n : Nat) : MachineInv (endTick n s) where
  memCanonical := h.memCanonical
  stackBounded := h.stackBounded
  returnsBounded := h.returnsBounded
  pcBounded := h.pcBounded
  pendingFetched := h.pendingFetched
  accBounded := Nat.mod_lt _ (by decide)
  errorHalts := h.errorHalts

/-- An instruction fetched in Idle keeps the invariant. -/
theorem inv_of_exec {i : Instr} {s u : State} (hinv : MachineInv s) (hp : s.pending = none) (hpc : s.pc.toNat ≤ 0xFFE)
    (h : exec i s = .next u) : MachineInv u := by
  rcases exec_next h with hc | ⟨e, rfl⟩
  · have hstack : StackOk s.stack := ⟨hinv.stackBounded, hinv.returnsBounded⟩
    obtain ⟨hlen, hret⟩ := stackOk_of_exec hstack hpc h
    exact {
      memCanonical := mem_wf_of_exec hinv.memCanonical h
      stackBounded := hlen
      returnsBounded := hret
      pcBounded := hc.pc ▸ pcAfter_le hstack hpc
      pendingFetched := fun hne => by
        obtain ⟨x, rfl⟩ := (pending_ne_none_of_exec hp h).mp hne
        exact hc.pc ▸ hpc
      accBounded := (samePart_of_exec (p := .acc) h (notMem_partsWritten (by simp) i) (by simp)) ▸ hinv.accBounded
      errorHalts := fun ho => absurd hc.outcome ho }
  · exact inv_raised hinv e

/-- A wait keeps the invariant: its PC is one a word was fetched from. -/
theorem inv_of_waitStep {x : RegIx} {s u : State} (hinv : MachineInv s) (hp : s.pending = some x)
    (h : waitStep x s = .next u) : MachineInv u := by
  have hpc : s.pc.toNat ≤ 0xFFE := hinv.pendingFetched (by simp [hp])
  have hnext := toNat_nextPc hpc
  rcases waitStep_cases x s with ⟨k, _, e⟩ | ⟨_, e⟩ <;> cases e.symm.trans h
  · exact { hinv with
      pcBounded := show (s.pc + 2).toNat ≤ 0x10FE by omega
      pendingFetched := fun hne => absurd rfl hne
      errorHalts := fun ho => absurd rfl ho }
  · exact { hinv with errorHalts := fun ho => absurd rfl ho }

/-- Settles O57: a fetch error, an instruction and a wait keep the invariant, and so does the end of the tick. -/
theorem stepKeepsInvariant : Obligations.StepKeepsInvariant := by
  intro s t hinv h
  obtain ⟨u, hu, rfl⟩ := tick_next h
  refine inv_endTick ?_ _
  rcases coreStep_cases s with ⟨_, e, _, hs⟩ | ⟨hp, i, hf, hs⟩ | ⟨x, hx, hs⟩
  · cases hs.symm.trans hu
    exact inv_raised hinv e
  · exact inv_of_exec hinv hp (pc_of_fetchInstr hf) (hs.symm.trans hu)
  · exact inv_of_waitStep hinv hx (hs.symm.trans hu)

/-! ### Reset -/

/-- Settles O55: every field by evaluation, the cells and the keys by what a vector of one value holds. -/
theorem resetValues : Obligations.ResetValues := by
  refine ⟨fun x => ?_, rfl, rfl, rfl, rfl, rfl, fun k => ?_, fun r _ c _ => pixel_blank r c, rfl, rfl, rfl, rfl, fun a ha => ?_,
    by decide, by decide, by decide, by decide, rfl, rfl, rfl, rfl, rfl⟩
  · simp [State.getV, State.reset]
  · intro hd
    simpa [State.reset] using List.mem_of_getElem? hd
  · exact List.getD_eq_default _ _ ha

/-- Settles O56: reset memory is empty, so canonical, the stack is empty and PC is 0x200. -/
theorem invariantAtReset : Obligations.InvariantAtReset where
  memCanonical := reset_mem_wf
  stackBounded := by decide
  returnsBounded := fun w hw => absurd hw List.not_mem_nil
  pcBounded := by decide
  pendingFetched := fun h => absurd rfl h
  accBounded := by decide
  errorHalts := fun h => absurd rfl h

/-! ### The host -/

theorem hostAct_load_of_ok {image : List Byte} {s t : State} (h : hostAct (.load image) s = some t) :
    (s.loaded = false ∧ s.ticks = 0 ∧ image.length ≤ 3584) ∧ t = (s.setMem (writeBytes s.mem 0x200 image)).markLoaded := by
  rcases loadProgram_cases image s with ⟨hc, e⟩ | ⟨_, e⟩ <;> cases e.symm.trans h
  exact ⟨hc, rfl⟩

theorem load_fits {image : List Byte} (h : image.length ≤ 3584) : 0x200 + image.length ≤ memSize := by
  simp only [memSize]; omega

/-- Settles O58: only a load reaches a piece the invariant speaks of, and it writes within memory. -/
theorem hostActionKeepsInvariant : Obligations.HostActionKeepsInvariant := by
  intro a s t hinv h
  cases a with
  | load image =>
    obtain ⟨⟨_, _, hlen⟩, rfl⟩ := hostAct_load_of_ok h
    exact { hinv with memCanonical := writeBytes_wf hinv.memCanonical (load_fits hlen) }
  | key k b => cases h; exact { hinv with }
  | clearDirty => cases h; exact { hinv with }
  | elapsed l => cases h; exact { hinv with }

theorem reachable_inv {s : State} (h : Reachable s) : MachineInv s := by
  induction h with
  | reset => exact invariantAtReset
  | tick _ h ih => exact stepKeepsInvariant _ _ ih h
  | host a _ h ih => exact hostActionKeepsInvariant a _ _ ih h

/-- Settles O59: the invariant at reset, by ticks and by host actions; and the range check of a fetch. -/
theorem reachableStatesMeetInvariant : Obligations.ReachableStatesMeetInvariant := by
  refine ⟨fun s => reachable_inv, fun s w h => ?_⟩
  rcases fetchWord_cases s with ⟨hle, _⟩ | ⟨_, e⟩
  · omega
  · cases e.symm.trans h

/-- No host action moves PC or the count of ticks (45_step_machine R240). -/
theorem pc_ticks_of_hostAct {a : HostAction} {s t : State} (h : hostAct a s = some t) : t.pc = s.pc ∧ t.ticks = s.ticks := by
  cases a with
  | load image => obtain ⟨-, rfl⟩ := hostAct_load_of_ok h; exact ⟨rfl, rfl⟩
  | key k b => cases h; exact ⟨rfl, rfl⟩
  | clearDirty => cases h; exact ⟨rfl, rfl⟩
  | elapsed l => cases h; exact ⟨rfl, rfl⟩

/-- Once a program is loaded no host action reaches memory or undoes the load (70_reset_and_hazards R305). -/
theorem mem_of_hostAct_loaded {a : HostAction} {s t : State} (hl : s.loaded = true) (h : hostAct a s = some t) :
    t.mem = s.mem ∧ t.loaded = true := by
  by_cases ha : ∃ image, a = .load image
  · obtain ⟨image, rfl⟩ := ha
    obtain ⟨⟨hf, _⟩, _⟩ := hostAct_load_of_ok h
    simp [hl] at hf
  · obtain ⟨hm, hl'⟩ := hostAct_keeps_mem h (not_exists.mp ha)
    exact ⟨hm, hl'.trans hl⟩

/-- What a load leaves in memory: the image from 0x200 on, and every other byte as it was. -/
theorem memRead_load {s : State} {image : List Byte} (hm : s.mem.wf) (hlen : image.length ≤ 3584) :
    (∀ i (h : i < image.length), memRead (writeBytes s.mem 0x200 image) (0x200 + i) = image[i]) ∧
      ∀ a, a < 0x200 ∨ 0x200 + image.length ≤ a → memRead (writeBytes s.mem 0x200 image) a = memRead s.mem a :=
  ⟨fun _ h => memRead_writeBytes_in hm (load_fits hlen) h, fun _ ha => memRead_writeBytes_out s.mem image ha⟩

theorem hostAct_load_of_not {s : State} {image : List Byte} (h : image.length > 3584 ∨ s.loaded = true ∨ s.ticks ≠ 0) :
    hostAct (.load image) s = none := by
  rcases loadProgram_cases image s with ⟨⟨hl, ht, hlen⟩, _⟩ | ⟨_, e⟩
  · simp [hl, ht] at h; omega
  · exact e

theorem hostAct_load {s : State} {image : List Byte} (hl : s.loaded = false) (ht : s.ticks = 0) (hlen : image.length ≤ 3584) :
    hostAct (.load image) s = some (s.setMem (writeBytes s.mem 0x200 image)).markLoaded := by
  rcases loadProgram_cases image s with ⟨_, e⟩ | ⟨hn, _⟩
  · exact e
  · simp [hl, ht] at hn; omega

/-- Settles O54: the two ends of a load, what the other host actions reach, and that a tick leaves loaded and counts itself. -/
theorem programLoadPort : Obligations.ProgramLoadPort := by
  refine ⟨fun s image hm => ⟨fun hl ht hlen => ?_, hostAct_load_of_not⟩, fun a s t h => ⟨fun ha => ?_, fun hl => ?_, ?_⟩,
    fun s t h => ?_⟩
  · obtain ⟨hin, hout⟩ := memRead_load hm hlen
    exact ⟨_, hostAct_load hl ht hlen, rfl, rfl, (frame_setMem s _).trans (frame_markLoaded _), hin, hout, rfl,
      fun second => hostAct_load_of_not (.inr (.inl rfl))⟩
  · exact (hostAct_keeps_mem h ha).1
  · exact (mem_of_hostAct_loaded hl h).2
  · exact (pc_ticks_of_hostAct h).2
  · obtain ⟨u, hu, rfl⟩ := tick_next h
    obtain ⟨-, hticks⟩ := ports_of_coreStep hu
    exact ⟨loaded_of_coreStep (u := u) hu, congrArg (· + 1) hticks⟩

/-! ### Until the first tick -/

/-- The states the host alone makes of reset: Idle at 0x200, memory as reset leaves it while nothing is loaded. -/
def Untouched (s : State) : Prop :=
  s.pc = 0x200 ∧ s.pending = none ∧ (s.loaded = false → s.mem = [])

theorem untouched_of_hostAct {a : HostAction} {s t : State} (hs : Untouched s) (h : hostAct a s = some t) : Untouched t := by
  obtain ⟨hpc, hp, hm⟩ := hs
  refine ⟨(pc_ticks_of_hostAct h).1.trans hpc, (pending_of_hostAct h).trans hp, fun hl => ?_⟩
  by_cases ha : ∃ image, a = .load image
  · obtain ⟨image, rfl⟩ := ha
    obtain ⟨-, rfl⟩ := hostAct_load_of_ok h
    cases hl
  · obtain ⟨hmem, hload⟩ := hostAct_keeps_mem h (not_exists.mp ha)
    exact hmem.trans (hm (hload.symm.trans hl))

theorem untouched_of_reachable {s : State} (h : Reachable s) (ht : s.ticks = 0) : Untouched s := by
  induction h with
  | reset => exact ⟨rfl, rfl, fun _ => rfl⟩
  | tick _ h _ =>
    obtain ⟨u, _, rfl⟩ := tick_next h
    exact absurd ht (Nat.succ_ne_zero _)
  | host a _ h ih => exact untouched_of_hostAct (ih ((pc_ticks_of_hostAct h).2.symm.trans ht)) h

/-- After a load, host actions leave memory and the count of ticks, however many they are. -/
theorem mem_of_hostActs {later : List HostAction} {s u : State} (hl : s.loaded = true)
    (h : later.foldlM (fun q a => hostAct a q) s = some u) : u.mem = s.mem ∧ u.ticks = s.ticks := by
  induction later generalizing s with
  | nil => cases h; exact ⟨rfl, rfl⟩
  | cons a later ih =>
    obtain ⟨q, hq, hrest⟩ := Option.bind_eq_some_iff.mp (List.foldlM_cons.symm.trans h)
    obtain ⟨hm, hl'⟩ := mem_of_hostAct_loaded hl hq
    obtain ⟨hm', ht'⟩ := ih hl' hrest
    exact ⟨hm'.trans hm, ht'.trans (pc_ticks_of_hostAct hq).2⟩

/-- Settles O60: before the first tick only the host has acted; its one load fits, finds memory as reset leaves it, and no later action
reaches memory. -/
theorem memoryBeforeFirstTick : Obligations.MemoryBeforeFirstTick := by
  intro s hs
  refine ⟨fun ht => ?_, fun image t h => ?_⟩
  · obtain ⟨hpc, hp, hm⟩ := untouched_of_reachable hs ht
    exact ⟨hpc, hp, fun hl a => by rw [hm hl]; rfl⟩
  · obtain ⟨⟨hl, ht, hlen⟩, rfl⟩ := hostAct_load_of_ok h
    obtain ⟨-, -, hm⟩ := untouched_of_reachable hs ht
    obtain ⟨hin, hout⟩ := memRead_load (image := image) (reachable_inv hs).memCanonical hlen
    refine ⟨hlen, fun later u hu => ?_⟩
    obtain ⟨hmem, hticks⟩ := mem_of_hostActs rfl hu
    rw [hmem]
    exact ⟨hticks.trans ht, hin, fun a ha => (hout a ha).trans (by rw [hm hl]; rfl)⟩

end Sys2Proof.Machine
end
